-- ==== Sys2Proof/Word.lean ====
section
/-! DEFINITION. The byte and the byte sequence of the spec's notation (00_scope.md R8, R9). -/

namespace Sys2Proof

/-- An integer in 0..255 whose bits are numbered 7 down to 0 (R8, R9). -/
abbrev Byte := BitVec 8

/-- A finite byte sequence `s[0] .. s[len(s)-1]` (R8). -/
abbrev Bytes := List Byte

end Sys2Proof
end

