-- ==== Sys2Proof/Registers.lean ====
section
/-! DEFINITION. The plain data the machine's registers hold: filter kinds, status codes, parameter registers,
the codec instance, RESULT, the working state, and what the host hands over. -/

namespace Sys2Proof

/-- The native filter kinds, the values 0..4 of the 3-bit register INST.KIND (10_state.md R21). -/
inductive Kind where
  | ascii85 | asciiHex | runLength | lzw | flate
  deriving DecidableEq, Repr, Inhabited

/-- The engine's errors, status codes 1..14 (60_exceptions.md R251). -/
inductive EngineError where
  | unsupportedFilter | undefinedPredictor | unsupportedPredictor | colors | bpc | columns
  | a85MissingEod | a85Invalid | hexInvalid | hexMissingEod | rlTruncated | lzwCorrupt
  | flateCorrupt | predictorData
  deriving DecidableEq, Repr, Inhabited

/-- The engine's refusals, status codes 15..17 (60_exceptions.md R251, R266). -/
inductive EngineRefusal where
  | noInstance | encodePredictor | badCommand
  deriving DecidableEq, Repr, Inhabited

/-- What STATUS can hold (10_state.md R25): faults and refusals are two closed enumerations (60_exceptions.md R251). -/
inductive Status where
  | ok
  | error (e : EngineError)
  | refusal (r : EngineRefusal)
  deriving DecidableEq, Repr, Inhabited

/-- The four parameter keys, in the order of the key index k (10_state.md R21, 30_encoding.md R74). -/
inductive ParmKey where
  | predictor | colors | bitsPerComponent | columns
  deriving DecidableEq, Repr, Inhabited

/-- One parameter register `INST.P[k]` (10_state.md R21, R22). -/
structure Parm where
  present : Bool
  value : Int
  deriving DecidableEq, Repr, Inhabited

/-- The codec instance `INST` (10_state.md R21). -/
structure Inst where
  valid : Bool
  kind : Kind
  hasMap : Bool
  predictor : Parm
  colors : Parm
  bitsPerComponent : Parm
  columns : Parm
  deriving DecidableEq, Repr, Inhabited

/-- What RESULT holds: LIST's name strings or SUPPORTS's boolean (10_state.md R26). -/
inductive RegResult where
  | names (l : List Bytes)
  | answer (b : Bool)
  deriving DecidableEq, Repr, Inhabited

/-- The working state `WORK`, the union of the per-codec working registers (10_state.md R30 to R37).
`table` lists the LZW dictionary newest entry first: its head is `table[next - 1]` of R32. `dict` lists the LZW
encoder's keys with their codes, newest first (R33). `bitbuf` lists the bits not yet formed into bytes, first bit first. -/
structure Work where
  prevRow : Option Bytes
  curRow : Bytes
  rowIndex : Nat
  bp : Nat
  width : Nat
  next : Nat
  prev : Option Bytes
  table : List Bytes
  encWidth : Nat
  encCount : Nat
  dict : List (Bytes × Nat)
  encMatch : Bytes
  bitbuf : List Bool
  eodpos : Nat
  group : List Nat
  hi : Option (BitVec 4)
  scanI : Nat
  scanJ : Nat
  scanR : Nat
  raw : Bytes
  deriving DecidableEq, Repr, Inhabited

/-- A parameter map as the host supplies it: key strings with integer values (30_encoding.md R74). -/
abbrev ParmMap := List (Bytes × Int)

/-- A command in its compact form: the command byte and the typed operands beside it (30_encoding.md R71, R76).
An operand the operation does not take is ignored. -/
structure Command where
  cmd : Byte
  name : Bytes
  parms : Option ParmMap
  maxLen : Int
  input : Bytes
  deriving DecidableEq, Repr, Inhabited

/-- What the host does to an engine between commands: issue a command or apply reset (70_reset_and_hazards.md R290). -/
inductive HostEvent where
  | command (c : Command)
  | reset
  deriving DecidableEq, Repr, Inhabited

end Sys2Proof
end

