-- ==== Sys2Proof/Config.lean ====
section
/-! DEFINITION. The OPEN parameters of the spec (00_scope.md R7, 92_eei_decisions.md) as plain data, and the free values:
constants without a body, of which nothing can be proved. -/

namespace Sys2Proof

/-- What a bounded decode depends on: the arguments `(INST, IN, n)` of the relation of 47_bounded_decode.md R243. INST enters
by its kind and the parameters that kind reads: the resolved four for LZW and Flate (40_registry_factory.md R106), none for
the parameter-less codecs (R105). -/
structure StopCase where
  kind : Kind
  parms : List Int
  input : Bytes
  limit : Nat
  deriving DecidableEq, Repr, Inhabited

/-- BOUNDED_STOP, how a bounded decode ends (47_bounded_decode.md R243, D40): `exact` is the reference of R244, `lazy` the
refinement of R248, and `choose known` the general case: any function of the case that the relation of R243 allows. Its
choice is what `known` lists for the case, else `Config.freeStop`: `none` reports the error where there is one, `some l`
stops at length `l` as far as the relation allows (log 13). -/
inductive BoundedStop where
  | exact
  | lazy
  | choose (known : List (StopCase × Option Nat))
  deriving DecidableEq, Repr, Inhabited

/-- The parameters that the spec leaves OPEN. `none` for a width or a capacity means unbounded, the reference value. -/
structure Config where
  /-- LIST_ORDER (D6). -/
  listOrder : List Bytes
  /-- PARAM_BITS (10_state.md R22, D8). -/
  paramBits : Option Nat
  /-- MAX_IN, MAX_OUT, MAX_ROW, MAX_NAME (D9). -/
  maxIn : Option Nat
  maxOut : Option Nat
  maxRow : Option Nat
  maxName : Option Nat
  /-- LZW_CLEAR_AFTER (D22). -/
  lzwClearAfter : Nat
  /-- BOUNDED_STOP (D40). -/
  boundedStop : BoundedStop
  /-- Known answers of the DEFLATE primitive (43_flate.md R170): input, and `ok` bytes or `err`. -/
  inflateKnown : List (Bytes × Option Bytes)
  deflateKnown : List (Bytes × Bytes)
  deriving DecidableEq, Repr, Inhabited

/-- DESIGN CHOICE (log 16): the DEFLATE primitive where no answer is known (43_flate.md R170); `none` is `err`. -/
opaque Config.freeInflate : Bytes → Option Bytes
opaque Config.freeDeflate : Bytes → Bytes

/-- DESIGN CHOICE (log 13): the choice of BOUNDED_STOP for a case of which nothing is listed: an uninterpreted function, as
D40 leaves it open to any that satisfies 47_bounded_decode.md R243. -/
opaque Config.freeStop : StopCase → Option Nat

/-- Free values (logs 8, 9): RESULT after a command that does not write it (10_state.md R26), and WORK, ip and MAXLEN
after an error (60_exceptions.md R269). -/
opaque Config.freeResult : Nat → RegResult
opaque Config.freeWork : Nat → Work
opaque Config.freeIp : Nat → Nat
opaque Config.freeMaxLen : Nat → Int

end Sys2Proof
end

