-- ==== Sys2Proof/Machine/Classes.lean ====
section
/-! DEFINITION. The exact strings the engine compares (30_encoding.md R72, R74), the byte classes of the text formats
(R79, R81), and the reference configuration. -/

namespace Sys2Proof

/-- The bytes of `ASCII85Decode` (R72). -/
def nameAscii85 : Bytes :=
  [0x41, 0x53, 0x43, 0x49, 0x49, 0x38, 0x35, 0x44, 0x65, 0x63, 0x6F, 0x64, 0x65]

/-- The bytes of `ASCIIHexDecode` (R72). -/
def nameAsciiHex : Bytes :=
  [0x41, 0x53, 0x43, 0x49, 0x49, 0x48, 0x65, 0x78, 0x44, 0x65, 0x63, 0x6F, 0x64, 0x65]

/-- The bytes of `RunLengthDecode` (R72). -/
def nameRunLength : Bytes :=
  [0x52, 0x75, 0x6E, 0x4C, 0x65, 0x6E, 0x67, 0x74, 0x68, 0x44, 0x65, 0x63, 0x6F, 0x64, 0x65]

/-- The bytes of `LZWDecode` (R72). -/
def nameLzw : Bytes :=
  [0x4C, 0x5A, 0x57, 0x44, 0x65, 0x63, 0x6F, 0x64, 0x65]

/-- The bytes of `FlateDecode` (R72). -/
def nameFlate : Bytes :=
  [0x46, 0x6C, 0x61, 0x74, 0x65, 0x44, 0x65, 0x63, 0x6F, 0x64, 0x65]

/-- The bytes of `CCITTFaxDecode` (R72). -/
def nameCcittFax : Bytes :=
  [0x43, 0x43, 0x49, 0x54, 0x54, 0x46, 0x61, 0x78, 0x44, 0x65, 0x63, 0x6F, 0x64, 0x65]

/-- The bytes of `JBIG2Decode` (R72). -/
def nameJbig2 : Bytes :=
  [0x4A, 0x42, 0x49, 0x47, 0x32, 0x44, 0x65, 0x63, 0x6F, 0x64, 0x65]

/-- The bytes of `DCTDecode` (R72). -/
def nameDct : Bytes :=
  [0x44, 0x43, 0x54, 0x44, 0x65, 0x63, 0x6F, 0x64, 0x65]

/-- The bytes of `JPXDecode` (R72). -/
def nameJpx : Bytes :=
  [0x4A, 0x50, 0x58, 0x44, 0x65, 0x63, 0x6F, 0x64, 0x65]

/-- The bytes of the key `Predictor` (R74). -/
def keyPredictor : Bytes :=
  [0x50, 0x72, 0x65, 0x64, 0x69, 0x63, 0x74, 0x6F, 0x72]

/-- The bytes of the key `Colors` (R74). -/
def keyColors : Bytes :=
  [0x43, 0x6F, 0x6C, 0x6F, 0x72, 0x73]

/-- The bytes of the key `BitsPerComponent` (R74). -/
def keyBitsPerComponent : Bytes :=
  [0x42, 0x69, 0x74, 0x73, 0x50, 0x65, 0x72, 0x43, 0x6F, 0x6D, 0x70, 0x6F, 0x6E, 0x65, 0x6E, 0x74]

/-- The bytes of the key `Columns` (R74). -/
def keyColumns : Bytes :=
  [0x43, 0x6F, 0x6C, 0x75, 0x6D, 0x6E, 0x73]

/-- The nine valid filter names in the order of their FID, 0..8 (R72). -/
def filterNames : List Bytes :=
  [nameAscii85, nameAsciiHex, nameRunLength, nameLzw, nameFlate, nameCcittFax, nameJbig2, nameDct, nameJpx]

/-- `Classify(name)`: the FID of the string that `name` equals byte for byte, 15 when it equals none
(40_registry_factory.md R102). -/
def classify (name : Bytes) : Nat :=
  if filterNames.idxOf name < 9 then filterNames.idxOf name else 15

/-- The exact name string of a native kind (R72). -/
def Kind.filterName : Kind → Bytes
  | .ascii85 => nameAscii85
  | .asciiHex => nameAsciiHex
  | .runLength => nameRunLength
  | .lzw => nameLzw
  | .flate => nameFlate

/-- The key string of a parameter (R74). -/
def ParmKey.keyString : ParmKey → Bytes
  | .predictor => keyPredictor
  | .colors => keyColors
  | .bitsPerComponent => keyBitsPerComponent
  | .columns => keyColumns

/-- The white-space set `WS` of ASCII85 and ASCIIHex (R79, R81). -/
def whiteSpace : List Byte :=
  [0x00, 0x09, 0x0A, 0x0C, 0x0D, 0x20]

/-- A base-85 digit character `!`..`u` (R79). -/
def isA85Digit (ch : Byte) : Bool :=
  decide (0x21 ≤ ch ∧ ch ≤ 0x75)

/-- `HexVal(ch)`: the value of a hexadecimal digit character, undefined for every other byte (R81). -/
def hexVal (ch : Byte) : Option (BitVec 4) :=
  if 0x30 ≤ ch ∧ ch ≤ 0x39 then some ((ch - 0x30).setWidth 4)
  else if 0x41 ≤ ch ∧ ch ≤ 0x46 then some ((ch - 0x41 + 10).setWidth 4)
  else if 0x61 ≤ ch ∧ ch ≤ 0x66 then some ((ch - 0x61 + 10).setWidth 4)
  else none

/-- The reference values of the OPEN parameters (00_scope.md R7): LIST_ORDER of 40_registry_factory.md R100, mathematical
integers, no capacity bound, LZW_CLEAR_AFTER of 42_lzw.md R160, BOUNDED_STOP of 47_bounded_decode.md R244, and nothing
known of the DEFLATE primitive (log 12). -/
def Config.reference : Config where
  listOrder := [nameAscii85, nameAsciiHex, nameRunLength, nameLzw, nameFlate]
  paramBits := none
  maxIn := none
  maxOut := none
  maxRow := none
  maxName := none
  lzwClearAfter := 3837
  boundedStop := .exact
  inflateKnown := []
  deflateKnown := []

end Sys2Proof
end

