-- ==== Sys2Proof/Syntax.lean ====
section
/-! DEFINITION. The instruction set: one constructor per row of spec/opcode_table.json (30_encoding.md R70). -/

namespace Sys2Proof

/-- The SFCE's operations: the commands of the host (R71 to R76, R85) and the in-stream symbols of the data formats
(R75, R77 to R82). -/
inductive Instr where
  -- NEWFILTER (40_registry_factory.md R103): the name is the row's own, but for an unknown one
  | newfilterAscii85 (parms : Option ParmMap)
  | newfilterAsciihex (parms : Option ParmMap)
  | newfilterRunlength (parms : Option ParmMap)
  | newfilterLzw (parms : Option ParmMap)
  | newfilterFlate (parms : Option ParmMap)
  | newfilterCcittfax (parms : Option ParmMap)
  | newfilterJbig2 (parms : Option ParmMap)
  | newfilterDct (parms : Option ParmMap)
  | newfilterJpx (parms : Option ParmMap)
  | newfilterUnknown (name : Bytes) (parms : Option ParmMap)
  -- ENCODE, DECODE, DECODELEN on an instance of each kind (R104)
  | encodeAscii85 (input : Bytes)
  | encodeAsciihex (input : Bytes)
  | encodeRunlength (input : Bytes)
  | encodeLzw (input : Bytes)
  | encodeFlate (input : Bytes)
  | decodeAscii85 (input : Bytes)
  | decodeAsciihex (input : Bytes)
  | decodeRunlength (input : Bytes)
  | decodeLzw (input : Bytes)
  | decodeFlate (input : Bytes)
  | decodelenAscii85 (maxLen : Int) (input : Bytes)
  | decodelenAsciihex (maxLen : Int) (input : Bytes)
  | decodelenRunlength (maxLen : Int) (input : Bytes)
  | decodelenLzw (maxLen : Int) (input : Bytes)
  | decodelenFlate (maxLen : Int) (input : Bytes)
  -- registry queries (R100, R101)
  | list
  | supports (name : Bytes)
  -- reserved command bytes (30_encoding.md R85, 40_registry_factory.md R110)
  | reservedOp6_7 (op : BitVec 1) (fid : BitVec 4)
  | reservedOp8_15 (op : BitVec 3) (fid : BitVec 4)
  | reservedFidNonzero (op fid : BitVec 4)
  | reservedFid9_14 (op fid : BitVec 4)
  -- RunLength packets (30_encoding.md R78)
  | rlLit (len : BitVec 7)
  | rlEod
  | rlRep (len : BitVec 7)
  -- PNG row tags (30_encoding.md R77)
  | pngNone
  | pngSub
  | pngUp
  | pngAvg
  | pngPaeth
  | pngIllegal (tag : Byte)
  -- the TIFF row transform (41_predictor.md R122)
  | tiffHdiff
  -- Predictor parameter values (30_encoding.md R75)
  | predNone
  | predTiff
  | predPng10
  | predPng11
  | predPng12
  | predPng13
  | predPng14
  | predPng15
  | predUndefined (value : Int)
  -- LZW codes (30_encoding.md R82)
  | lzwLit (code : Byte)
  | lzwClear
  | lzwEod
  | lzwRef (code : BitVec 12)
  | lzwKwkwk (code : BitVec 12)
  | lzwIllegal (code : BitVec 12)
  -- ASCII85 bytes (30_encoding.md R79)
  | a85Digit (ch : Byte)
  | a85Z
  | a85Eod
  | a85Ws (ch : Byte)
  | a85Illegal (ch : Byte)
  -- ASCIIHex bytes (30_encoding.md R81)
  | hexDigit (ch : Byte)
  | hexEod
  | hexWs (ch : Byte)
  | hexIllegal (ch : Byte)
  deriving DecidableEq, Repr

end Sys2Proof
end

