-- ==== Sys2Proof/WellFormed.lean ====
section
/-! DEFINITION. Which instruction terms an encoding exists for: the operand checks of the encoding tables. -/

namespace Sys2Proof

/-- A parameter map holds each key at most once (92_eei_decisions.md D12). -/
def parmsWf (parms : Option ParmMap) : Bool :=
  match parms with
  | none => true
  | some m => decide (m.map Prod.fst).Nodup

/-- An LZW dictionary code is at least 258 (30_encoding.md R82). -/
def isTableCode (code : BitVec 12) : Bool :=
  decide (258 ≤ code.toNat)

/-- The operand checks of each row (30_encoding.md R72 to R85). -/
def Instr.wf : Instr → Bool
  | .newfilterAscii85 parms => parmsWf parms
  | .newfilterAsciihex parms => parmsWf parms
  | .newfilterRunlength parms => parmsWf parms
  | .newfilterLzw parms => parmsWf parms
  | .newfilterFlate parms => parmsWf parms
  | .newfilterCcittfax parms => parmsWf parms
  | .newfilterJbig2 parms => parmsWf parms
  | .newfilterDct parms => parmsWf parms
  | .newfilterJpx parms => parmsWf parms
  | .newfilterUnknown name parms => decide (classify name = 15) && parmsWf parms
  | .encodeAscii85 _ => true
  | .encodeAsciihex _ => true
  | .encodeRunlength _ => true
  | .encodeLzw _ => true
  | .encodeFlate _ => true
  | .decodeAscii85 _ => true
  | .decodeAsciihex _ => true
  | .decodeRunlength _ => true
  | .decodeLzw _ => true
  | .decodeFlate _ => true
  | .decodelenAscii85 _ _ => true
  | .decodelenAsciihex _ _ => true
  | .decodelenRunlength _ _ => true
  | .decodelenLzw _ _ => true
  | .decodelenFlate _ _ => true
  | .list => true
  | .supports _ => true
  | .reservedOp6_7 _ _ => true
  | .reservedOp8_15 _ _ => true
  | .reservedFidNonzero op fid => decide (1 ≤ op ∧ op ≤ 4 ∧ fid ≠ 0)
  | .reservedFid9_14 op fid => decide ((op = 0 ∨ op = 5) ∧ 9 ≤ fid ∧ fid ≤ 14)
  | .rlLit _ => true
  | .rlEod => true
  | .rlRep len => decide (len ≠ 0)
  | .pngNone => true
  | .pngSub => true
  | .pngUp => true
  | .pngAvg => true
  | .pngPaeth => true
  | .pngIllegal tag => decide (5 ≤ tag)
  | .tiffHdiff => true
  | .predNone => true
  | .predTiff => true
  | .predPng10 => true
  | .predPng11 => true
  | .predPng12 => true
  | .predPng13 => true
  | .predPng14 => true
  | .predPng15 => true
  | .predUndefined value => decide (value ≠ 1 ∧ value ≠ 2 ∧ ¬ (10 ≤ value ∧ value ≤ 15))
  | .lzwLit _ => true
  | .lzwClear => true
  | .lzwEod => true
  | .lzwRef code => isTableCode code
  | .lzwKwkwk code => isTableCode code
  | .lzwIllegal code => decide (code ≠ 256 ∧ code ≠ 257)
  | .a85Digit ch => isA85Digit ch
  | .a85Z => true
  | .a85Eod => true
  | .a85Ws ch => decide (ch ∈ whiteSpace)
  | .a85Illegal ch => decide (ch ∉ whiteSpace) && decide (ch ≠ 0x7A) && !isA85Digit ch
  | .hexDigit ch => (hexVal ch).isSome
  | .hexEod => true
  | .hexWs ch => decide (ch ∈ whiteSpace)
  | .hexIllegal ch => decide (ch ≠ 0x3E) && decide (ch ∉ whiteSpace) && (hexVal ch).isNone

end Sys2Proof
end

