-- ==== Sys2Proof/Decode.lean ====
section
/-! DEFINITION. Decoding of command bytes and in-stream symbols, and after it the encoder, both from the tables of
30_encoding.md. Each format has one classification function (`…Cases`) that the decoder and the codec's own loop share. -/

namespace Sys2Proof

/-- The class of a RunLength length byte (30_encoding.md R78): 0x80 is tested first. -/
def rlCases {α : Type} (b : Byte) (lit : BitVec 7 → α) (eod : α) (rep : BitVec 7 → α) : α :=
  if b = 0x80 then eod
  else if b.getLsbD 7 = false then lit (b.extractLsb' 0 7)
  else rep (b.extractLsb' 0 7)

/-- The class of a PNG tag byte (30_encoding.md R77, R85). -/
def pngCases {α : Type} (tag : Byte) (none sub up avg paeth : α) (illegal : Byte → α) : α :=
  if tag = 0 then none
  else if tag = 1 then sub
  else if tag = 2 then up
  else if tag = 3 then avg
  else if tag = 4 then paeth
  else illegal tag

/-- The class of a Predictor value (30_encoding.md R75). -/
def predCases {α : Type} (v : Int) (none tiff p10 p11 p12 p13 p14 p15 : α) (undefined : Int → α) : α :=
  if v = 1 then none
  else if v = 2 then tiff
  else if v = 10 then p10
  else if v = 11 then p11
  else if v = 12 then p12
  else if v = 13 then p13
  else if v = 14 then p14
  else if v = 15 then p15
  else undefined v

/-- The class of an LZW code value, which depends on the decoder's `next` and on whether a previous string exists
(30_encoding.md R82, 42_lzw.md R142). -/
def lzwCases {α : Type} (next : Nat) (hasPrev : Bool) (c : Nat) (lit : Byte → α) (clear eod : α)
    (ref kwkwk illegal : BitVec 12 → α) : α :=
  if c = 256 then clear
  else if c = 257 then eod
  else if next = 4096 then illegal (BitVec.ofNat 12 c)
  else if c < 256 then lit (BitVec.ofNat 8 c)
  else if c < next then ref (BitVec.ofNat 12 c)
  else if c = next ∧ hasPrev = true then kwkwk (BitVec.ofNat 12 c)
  else illegal (BitVec.ofNat 12 c)

/-- The class of one ASCII85 byte before the terminator (30_encoding.md R79, 44_ascii85.md R192). -/
def a85Cases {α : Type} (ch : Byte) (digit : Byte → α) (z : α) (ws illegal : Byte → α) : α :=
  if ch ∈ whiteSpace then ws ch
  else if ch = 0x7A then z
  else if isA85Digit ch = true then digit ch
  else illegal ch

/-- The class of one ASCIIHex byte (30_encoding.md R81, 45_asciihex.md R211). -/
def hexCases {α : Type} (ch : Byte) (digit : Byte → α) (eod : α) (ws illegal : Byte → α) : α :=
  if ch = 0x3E then eod
  else if ch ∈ whiteSpace then ws ch
  else if (hexVal ch).isSome = true then digit ch
  else illegal ch

/-- What a symbol is read in: INST.KIND for a command byte (30_encoding.md R86, 40_registry_factory.md R104), else the
format, with the decoder's state where the format's classes depend on it (42_lzw.md R142). -/
inductive Context where
  | command (kind : Kind)
  | runLength
  | png
  | predictor
  | tiffRow
  | lzw (next : Nat) (hasPrev : Bool)
  | ascii85
  | asciiHex
  deriving DecidableEq, Repr

/-- An encoded instruction: a command record, bytes of a stream, an LZW code value, a Predictor value, or nothing at all
(TIFF.HDIFF has no symbol, 41_predictor.md R122). -/
inductive Encoded where
  | command (c : Command)
  | bytes (l : Bytes)
  | code (c : Nat)
  | value (v : Int)
  | untagged
  deriving DecidableEq, Repr

/-- Why decoding gives no instruction. -/
inductive Reject where
  /-- The stream has no byte left. -/
  | endOfStream
  /-- What was handed over is not of the form this context reads. -/
  | notThisFormat
  deriving DecidableEq, Repr

/-- NEWFILTER by the class of its name operand (40_registry_factory.md R103). -/
def decodeNewfilter (name : Bytes) (parms : Option ParmMap) : Instr :=
  match classify name with
  | 0 => .newfilterAscii85 parms
  | 1 => .newfilterAsciihex parms
  | 2 => .newfilterRunlength parms
  | 3 => .newfilterLzw parms
  | 4 => .newfilterFlate parms
  | 5 => .newfilterCcittfax parms
  | 6 => .newfilterJbig2 parms
  | 7 => .newfilterDct parms
  | 8 => .newfilterJpx parms
  | _ => .newfilterUnknown name parms

/-- ENCODE by INST.KIND (40_registry_factory.md R104). -/
def decodeEncode (kind : Kind) (input : Bytes) : Instr :=
  match kind with
  | .ascii85 => .encodeAscii85 input
  | .asciiHex => .encodeAsciihex input
  | .runLength => .encodeRunlength input
  | .lzw => .encodeLzw input
  | .flate => .encodeFlate input

/-- DECODE by INST.KIND (40_registry_factory.md R104). -/
def decodeDecode (kind : Kind) (input : Bytes) : Instr :=
  match kind with
  | .ascii85 => .decodeAscii85 input
  | .asciiHex => .decodeAsciihex input
  | .runLength => .decodeRunlength input
  | .lzw => .decodeLzw input
  | .flate => .decodeFlate input

/-- DECODELEN by INST.KIND (40_registry_factory.md R104). -/
def decodeDecodelen (kind : Kind) (maxLen : Int) (input : Bytes) : Instr :=
  match kind with
  | .ascii85 => .decodelenAscii85 maxLen input
  | .asciiHex => .decodelenAsciihex maxLen input
  | .runLength => .decodelenRunlength maxLen input
  | .lzw => .decodelenLzw maxLen input
  | .flate => .decodelenFlate maxLen input

/-- FID 9..14, to which no name maps (30_encoding.md R85). -/
def isReservedFid (fid : BitVec 4) : Bool :=
  decide (9 ≤ fid ∧ fid ≤ 14)

/-- A command, read by its byte: OP in bits 7:4, FID in bits 3:0 (30_encoding.md R71, R73, R85). Every byte is one row of
the table. For NEWFILTER and SUPPORTS the name operand says which filter is meant (40_registry_factory.md R101 to R103;
log 3). -/
def decodeCommand (kind : Kind) (c : Command) : Instr :=
  let op := c.cmd.extractLsb' 4 4
  let fid := c.cmd.extractLsb' 0 4
  match op.toNat with
  | 0 => if isReservedFid fid then .reservedFid9_14 op fid else decodeNewfilter c.name c.parms
  | 1 => if fid = 0 then decodeEncode kind c.input else .reservedFidNonzero op fid
  | 2 => if fid = 0 then decodeDecode kind c.input else .reservedFidNonzero op fid
  | 3 => if fid = 0 then decodeDecodelen kind c.maxLen c.input else .reservedFidNonzero op fid
  | 4 => if fid = 0 then .list else .reservedFidNonzero op fid
  | 5 => if isReservedFid fid then .reservedFid9_14 op fid else .supports c.name
  | 6 => .reservedOp6_7 (c.cmd.extractLsb' 4 1) fid
  | 7 => .reservedOp6_7 (c.cmd.extractLsb' 4 1) fid
  | _ => .reservedOp8_15 (c.cmd.extractLsb' 4 3) fid

/-- The symbol at the front of a RunLength stream (30_encoding.md R78). -/
def decodeRl (b : Byte) : Instr :=
  rlCases b .rlLit .rlEod .rlRep

/-- The row filter a PNG tag byte names (30_encoding.md R77). -/
def decodePng (tag : Byte) : Instr :=
  pngCases tag .pngNone .pngSub .pngUp .pngAvg .pngPaeth .pngIllegal

/-- What a Predictor value names (30_encoding.md R75). -/
def decodePredictor (v : Int) : Instr :=
  predCases v .predNone .predTiff .predPng10 .predPng11 .predPng12 .predPng13 .predPng14 .predPng15 .predUndefined

/-- What an LZW code value names (30_encoding.md R82). -/
def decodeLzw (next : Nat) (hasPrev : Bool) (c : Nat) : Instr :=
  lzwCases next hasPrev c .lzwLit .lzwClear .lzwEod .lzwRef .lzwKwkwk .lzwIllegal

/-- The symbol at the front of an ASCII85 stream: the terminator is two bytes, every other symbol one (30_encoding.md R79). -/
def decodeA85 : Bytes → Except Reject Instr
  | [] => .error .endOfStream
  | ch :: rest =>
    if ch = 0x7E ∧ rest.head? = some 0x3E then .ok .a85Eod
    else .ok (a85Cases ch .a85Digit .a85Z .a85Ws .a85Illegal)

/-- The symbol an ASCIIHex byte is (30_encoding.md R81). -/
def decodeHex (ch : Byte) : Instr :=
  hexCases ch .hexDigit .hexEod .hexWs .hexIllegal

/-- The decoder: total, rejecting by name. -/
def decode (ctx : Context) (e : Encoded) : Except Reject Instr :=
  match ctx, e with
  | .command kind, .command c => .ok (decodeCommand kind c)
  | .runLength, .bytes (b :: _) => .ok (decodeRl b)
  | .png, .bytes (b :: _) => .ok (decodePng b)
  | .predictor, .value v => .ok (decodePredictor v)
  | .tiffRow, .untagged => .ok .tiffHdiff
  | .lzw next hasPrev, .code c => .ok (decodeLzw next hasPrev c)
  | .ascii85, .bytes l => decodeA85 l
  | .asciiHex, .bytes (b :: _) => .ok (decodeHex b)
  | _, .bytes [] => .error .endOfStream
  | _, _ => .error .notThisFormat

/-- A command with the operands that NEWFILTER and SUPPORTS take (30_encoding.md R76). -/
def namedCommand (cmd : Byte) (name : Bytes) (parms : Option ParmMap) : Command :=
  ⟨cmd, name, parms, 0, []⟩

/-- A command with the operands that ENCODE, DECODE and DECODELEN take (30_encoding.md R76). -/
def dataCommandOf (cmd : Byte) (maxLen : Int) (input : Bytes) : Command :=
  ⟨cmd, [], none, maxLen, input⟩

/-- The encoder, from the same tables: the command record or the symbol of each row. -/
def encode : Instr → Encoded
  | .newfilterAscii85 parms => .command (namedCommand 0x00 nameAscii85 parms)
  | .newfilterAsciihex parms => .command (namedCommand 0x01 nameAsciiHex parms)
  | .newfilterRunlength parms => .command (namedCommand 0x02 nameRunLength parms)
  | .newfilterLzw parms => .command (namedCommand 0x03 nameLzw parms)
  | .newfilterFlate parms => .command (namedCommand 0x04 nameFlate parms)
  | .newfilterCcittfax parms => .command (namedCommand 0x05 nameCcittFax parms)
  | .newfilterJbig2 parms => .command (namedCommand 0x06 nameJbig2 parms)
  | .newfilterDct parms => .command (namedCommand 0x07 nameDct parms)
  | .newfilterJpx parms => .command (namedCommand 0x08 nameJpx parms)
  | .newfilterUnknown name parms => .command (namedCommand 0x0F name parms)
  | .encodeAscii85 input => .command (dataCommandOf 0x10 0 input)
  | .encodeAsciihex input => .command (dataCommandOf 0x10 0 input)
  | .encodeRunlength input => .command (dataCommandOf 0x10 0 input)
  | .encodeLzw input => .command (dataCommandOf 0x10 0 input)
  | .encodeFlate input => .command (dataCommandOf 0x10 0 input)
  | .decodeAscii85 input => .command (dataCommandOf 0x20 0 input)
  | .decodeAsciihex input => .command (dataCommandOf 0x20 0 input)
  | .decodeRunlength input => .command (dataCommandOf 0x20 0 input)
  | .decodeLzw input => .command (dataCommandOf 0x20 0 input)
  | .decodeFlate input => .command (dataCommandOf 0x20 0 input)
  | .decodelenAscii85 maxLen input => .command (dataCommandOf 0x30 maxLen input)
  | .decodelenAsciihex maxLen input => .command (dataCommandOf 0x30 maxLen input)
  | .decodelenRunlength maxLen input => .command (dataCommandOf 0x30 maxLen input)
  | .decodelenLzw maxLen input => .command (dataCommandOf 0x30 maxLen input)
  | .decodelenFlate maxLen input => .command (dataCommandOf 0x30 maxLen input)
  | .list => .command (namedCommand 0x40 [] none)
  | .supports name => .command (namedCommand (5#4 ++ BitVec.ofNat 4 (classify name)) name none)
  | .reservedOp6_7 op fid => .command (namedCommand (3#3 ++ op ++ fid) [] none)
  | .reservedOp8_15 op fid => .command (namedCommand (1#1 ++ op ++ fid) [] none)
  | .reservedFidNonzero op fid => .command (namedCommand (op ++ fid) [] none)
  | .reservedFid9_14 op fid => .command (namedCommand (op ++ fid) [] none)
  | .rlLit len => .bytes [0#1 ++ len]
  | .rlEod => .bytes [0x80]
  | .rlRep len => .bytes [1#1 ++ len]
  | .pngNone => .bytes [0x00]
  | .pngSub => .bytes [0x01]
  | .pngUp => .bytes [0x02]
  | .pngAvg => .bytes [0x03]
  | .pngPaeth => .bytes [0x04]
  | .pngIllegal tag => .bytes [tag]
  | .tiffHdiff => .untagged
  | .predNone => .value 1
  | .predTiff => .value 2
  | .predPng10 => .value 10
  | .predPng11 => .value 11
  | .predPng12 => .value 12
  | .predPng13 => .value 13
  | .predPng14 => .value 14
  | .predPng15 => .value 15
  | .predUndefined value => .value value
  | .lzwLit code => .code code.toNat
  | .lzwClear => .code 256
  | .lzwEod => .code 257
  | .lzwRef code => .code code.toNat
  | .lzwKwkwk code => .code code.toNat
  | .lzwIllegal code => .code code.toNat
  | .a85Digit ch => .bytes [ch]
  | .a85Z => .bytes [0x7A]
  | .a85Eod => .bytes [0x7E, 0x3E]
  | .a85Ws ch => .bytes [ch]
  | .a85Illegal ch => .bytes [ch]
  | .hexDigit ch => .bytes [ch]
  | .hexEod => .bytes [0x3E]
  | .hexWs ch => .bytes [ch]
  | .hexIllegal ch => .bytes [ch]

/-- Whether an instruction is one that this context reads: the kind of the instance for a data command, the format for a
symbol, the classes of 42_lzw.md R142 for an LZW code. -/
def Instr.fits : Instr → Context → Bool
  | .newfilterAscii85 _, .command _ => true
  | .newfilterAsciihex _, .command _ => true
  | .newfilterRunlength _, .command _ => true
  | .newfilterLzw _, .command _ => true
  | .newfilterFlate _, .command _ => true
  | .newfilterCcittfax _, .command _ => true
  | .newfilterJbig2 _, .command _ => true
  | .newfilterDct _, .command _ => true
  | .newfilterJpx _, .command _ => true
  | .newfilterUnknown _ _, .command _ => true
  | .encodeAscii85 _, .command k => decide (k = .ascii85)
  | .encodeAsciihex _, .command k => decide (k = .asciiHex)
  | .encodeRunlength _, .command k => decide (k = .runLength)
  | .encodeLzw _, .command k => decide (k = .lzw)
  | .encodeFlate _, .command k => decide (k = .flate)
  | .decodeAscii85 _, .command k => decide (k = .ascii85)
  | .decodeAsciihex _, .command k => decide (k = .asciiHex)
  | .decodeRunlength _, .command k => decide (k = .runLength)
  | .decodeLzw _, .command k => decide (k = .lzw)
  | .decodeFlate _, .command k => decide (k = .flate)
  | .decodelenAscii85 _ _, .command k => decide (k = .ascii85)
  | .decodelenAsciihex _ _, .command k => decide (k = .asciiHex)
  | .decodelenRunlength _ _, .command k => decide (k = .runLength)
  | .decodelenLzw _ _, .command k => decide (k = .lzw)
  | .decodelenFlate _ _, .command k => decide (k = .flate)
  | .list, .command _ => true
  | .supports _, .command _ => true
  | .reservedOp6_7 _ _, .command _ => true
  | .reservedOp8_15 _ _, .command _ => true
  | .reservedFidNonzero _ _, .command _ => true
  | .reservedFid9_14 _ _, .command _ => true
  | .rlLit _, .runLength => true
  | .rlEod, .runLength => true
  | .rlRep _, .runLength => true
  | .pngNone, .png => true
  | .pngSub, .png => true
  | .pngUp, .png => true
  | .pngAvg, .png => true
  | .pngPaeth, .png => true
  | .pngIllegal _, .png => true
  | .tiffHdiff, .tiffRow => true
  | .predNone, .predictor => true
  | .predTiff, .predictor => true
  | .predPng10, .predictor => true
  | .predPng11, .predictor => true
  | .predPng12, .predictor => true
  | .predPng13, .predictor => true
  | .predPng14, .predictor => true
  | .predPng15, .predictor => true
  | .predUndefined _, .predictor => true
  | .lzwLit _, .lzw next _ => decide (next ≠ 4096)
  | .lzwClear, .lzw _ _ => true
  | .lzwEod, .lzw _ _ => true
  | .lzwRef code, .lzw next _ => decide (next ≠ 4096 ∧ code.toNat < next)
  | .lzwKwkwk code, .lzw next hasPrev => decide (next ≠ 4096 ∧ code.toNat = next ∧ hasPrev = true)
  | .lzwIllegal code, .lzw next hasPrev =>
    decide (next = 4096 ∨ (256 ≤ code.toNat ∧ next ≤ code.toNat ∧ ¬ (code.toNat = next ∧ hasPrev = true)))
  | .a85Digit _, .ascii85 => true
  | .a85Z, .ascii85 => true
  | .a85Eod, .ascii85 => true
  | .a85Ws _, .ascii85 => true
  | .a85Illegal _, .ascii85 => true
  | .hexDigit _, .asciiHex => true
  | .hexEod, .asciiHex => true
  | .hexWs _, .asciiHex => true
  | .hexIllegal _, .asciiHex => true
  | _, _ => false

/-- The exact string of a FID 0..8; an unknown name (the empty string, 40_registry_factory.md R102) for every other FID. -/
def nameOfFid (fid : Nat) : Bytes :=
  filterNames.getD fid []

/-- A command byte with the operands a host that sends this byte supplies at least: the name its FID stands for, no map,
`maxLen` 0 and an empty input. -/
def commandOfByte (b : Byte) : Command :=
  namedCommand b (nameOfFid (b.extractLsb' 0 4).toNat) none

/-- The two bytes of a 16-bit symbol, the first in bits 15:8: the opcode table matches A85.EOD, `~` then `>`, with 0x7E3E
(DEDUCED, log 4). -/
def bytesOfPair (w : Nat) : Bytes :=
  [BitVec.ofNat 8 (w / 256), BitVec.ofNat 8 w]

/-- The instruction the decoder reads from a word of the opcode table: an 8-bit word is a command byte, read under the
kind that INST has after reset; a 16-bit word is the two bytes at the front of an ASCII85 stream (log 4). -/
def decodeTableWord (nbits w : Nat) : Option Instr :=
  if nbits = 8 then some (decodeCommand .ascii85 (commandOfByte (BitVec.ofNat 8 w)))
  else if nbits = 16 then (decodeA85 (bytesOfPair w)).toOption
  else none

end Sys2Proof
end

