-- ==== Sys2Proof/Machine/State.lean ====
section
/-! DEFINITION. The machine's state as plain data, the reasons a step can stop, and the state after reset. -/

namespace Sys2Proof.Machine

/-- The complete state of one engine, 10_state.md R20: INST, STATUS, RESULT, IN, ip, OUT, MAXLEN, WORK. The first three
fields are the model's own: the configuration (log 12), what the host will send next (log 2), and the counter that
indexes free values (log 25). -/
structure State where
  cfg : Config
  pending : List HostEvent
  free : Nat
  inst : Inst
  status : Status
  result : RegResult
  input : Bytes
  ip : Nat
  out : Bytes
  maxLen : Int
  work : Work
  deriving DecidableEq, Repr

/-- The model's own faults. The engine's errors are no faults of the model: they are next states with STATUS written
(log 7). -/
inductive Fault where
  /-- Raised by a command whose codec loop has used all its rounds. Safe: the bound exceeds what any input needs
  (70_reset_and_hazards.md R289), so no command raises it (log 23). -/
  | loopBound
  /-- Raised by the LZW encoder when its current match has no code. Safe: the match is always one byte or a key of the
  dictionary (42_lzw.md R157), so no command raises it (log 23). -/
  | noCode
  deriving DecidableEq, Repr

/-- The model's own refusals. The engine's refusals are no refusals of the model: they are next states with STATUS
written (log 7). -/
inductive Refusal where
  /-- An instruction that has no meaning yet. Safe. No arm of exec raises it. -/
  | notModelled (mnemonic : String)
  /-- Raised where an operand, an output or a row does not fit a finite capacity of the configuration
  (70_reset_and_hazards.md R291: "a model adds a refusal"). Safe; impossible while the capacities are unbounded, their
  reference value (log 14). -/
  | capacityExceeded
  deriving DecidableEq, Repr

/-- A parameter register after reset (log 10). -/
def Parm.cleared : Parm := ⟨false, 0⟩

/-- INST after reset: VALID is 0 (10_state.md R39), the rest is the model's choice (log 10). -/
def Inst.cleared : Inst :=
  ⟨false, .ascii85, false, Parm.cleared, Parm.cleared, Parm.cleared, Parm.cleared⟩

/-- The initial values of every working register, 10_state.md R31 to R37. For two registers these rules give none, and the
value is the model's DESIGN CHOICE (log 30): `curRow` (R31) starts empty and `eodpos` (R34) at 0; the rules write each before
they read it. -/
def Work.initial : Work where
  prevRow := none
  curRow := []
  rowIndex := 0
  bp := 0
  width := 9
  next := 258
  prev := none
  table := []
  encWidth := 9
  encCount := 0
  dict := []
  encMatch := []
  bitbuf := []
  eodpos := 0
  group := []
  hi := none
  scanI := 0
  scanJ := 0
  scanR := 0
  raw := []

/-- The state right after reset: INST.VALID = 0, STATUS = OK, IN and OUT empty, ip = 0 (10_state.md R39,
70_reset_and_hazards.md R280); the other registers hold the values of log 10, the configuration its reference values. -/
def State.reset : State where
  cfg := Config.reference
  pending := []
  free := 0
  inst := Inst.cleared
  status := .ok
  result := .names []
  input := []
  ip := 0
  out := []
  maxLen := 0
  work := Work.initial

end Sys2Proof.Machine
end

