-- ==== Sys2Proof/Machine/Flags.lean ====
section
/-! DEFINITION. STATUS, the only flag register (10_state.md R25): its codes and classes. There are no condition codes and
no arithmetic rule has a flag side effect. -/

namespace Sys2Proof.Machine

/-- The number of an error, 1..14 (60_exceptions.md R251). -/
def errorCode : EngineError → Nat
  | .unsupportedFilter => 1
  | .undefinedPredictor => 2
  | .unsupportedPredictor => 3
  | .colors => 4
  | .bpc => 5
  | .columns => 6
  | .a85MissingEod => 7
  | .a85Invalid => 8
  | .hexInvalid => 9
  | .hexMissingEod => 10
  | .rlTruncated => 11
  | .lzwCorrupt => 12
  | .flateCorrupt => 13
  | .predictorData => 14

/-- The number of a refusal, 15..17 (60_exceptions.md R251). -/
def refusalCode : EngineRefusal → Nat
  | .noInstance => 15
  | .encodePredictor => 16
  | .badCommand => 17

/-- The number STATUS holds (60_exceptions.md R251). -/
def statusCode : Status → Nat
  | .ok => 0
  | .error e => errorCode e
  | .refusal r => refusalCode r

/-- The set `AlwaysReported` (47_bounded_decode.md R246): errors that no `maxLen` hides. -/
def alwaysReported : EngineError → Bool
  | .undefinedPredictor => true
  | .unsupportedPredictor => true
  | .colors => true
  | .bpc => true
  | .columns => true
  | .a85MissingEod => true
  | .unsupportedFilter => false
  | .a85Invalid => false
  | .hexInvalid => false
  | .hexMissingEod => false
  | .rlTruncated => false
  | .lzwCorrupt => false
  | .flateCorrupt => false
  | .predictorData => false

end Sys2Proof.Machine
end

