-- ==== Sys2Proof/Machine/Ops.lean ====
section
/-! DEFINITION. The shared operations: reads of IN and RAW, bit fields, `Emit`, the start and the end of a command,
entry into an error or a refusal, the codec loop, and the settling of a command or symbol into an outcome. -/

namespace Sys2Proof.Machine

/-- What one part of a command leads to. -/
inductive Flow where
  /-- The command goes on. -/
  | more (s : State)
  /-- `end ok`. -/
  | stop (s : State)
  /-- `raise` of an error; `s` is the state at that moment, its OUT the bytes emitted before it (47_bounded_decode.md R247). -/
  | raise (e : EngineError) (s : State)
  /-- `refuse` (00_scope.md R13). -/
  | refuse (r : EngineRefusal) (s : State)
  /-- A finite capacity of the configuration is exceeded (log 14). -/
  | exceeds
  /-- The LZW encoder's match has no code (never reached, log 23). -/
  | stuck
  deriving DecidableEq, Repr

/-! ## Reads, bit fields, Emit -/

/-- `MemRead(x, a, n)`: the `n` bytes from index `a`, defined only inside the sequence (00_scope.md R12). -/
def memRead (l : Bytes) (a n : Nat) : Option Bytes :=
  if a + n ≤ l.length then some ((l.drop a).take n) else none

/-- `InByte()`: the next input byte, and the state whose cursor is past it (00_scope.md R12, 20_memory.md R63). -/
def inByte (s : State) : Option (Byte × State) :=
  match s.input[s.ip]? with
  | none => none
  | some b => some (b, { s with ip := s.ip + 1 })

/-- `Emit(v)`: append to OUT, its only write (00_scope.md R12). -/
def emit (l : Bytes) (s : State) : State :=
  { s with out := s.out ++ l }

/-- Bit `p` of a byte sequence, bit 7 of byte 0 being bit 0 (20_memory.md R53). -/
def bitAt (l : Bytes) (p : Nat) : Bool :=
  (l.getD (p / 8) 0).getLsbD (7 - p % 8)

/-- The unsigned number whose bits are given most significant first. -/
def bitsToNat (bits : List Bool) : Nat :=
  bits.foldl (fun v b => 2 * v + b.toNat) 0

/-- The `w` bits of `v`, most significant first. -/
def natToBits (v w : Nat) : List Bool :=
  (List.range w).map fun j => v.testBit (w - 1 - j)

/-- `BitRead(w)` at bit cursor `bp`: defined while the bits are there (20_memory.md R53). -/
def bitRead (l : Bytes) (bp w : Nat) : Option Nat :=
  if bp + w ≤ 8 * l.length then some (bitsToNat ((List.range w).map fun j => bitAt l (bp + j))) else none

/-- The whole bytes at the front of a bit list, first bit in bit 7 (20_memory.md R53). -/
def wholeBytes : List Bool → Bytes
  | b7 :: b6 :: b5 :: b4 :: b3 :: b2 :: b1 :: b0 :: rest =>
    BitVec.ofNat 8 (bitsToNat [b7, b6, b5, b4, b3, b2, b1, b0]) :: wholeBytes rest
  | _ => []

/-- The bits left after the whole bytes. -/
def bitsLeft (bits : List Bool) : List Bool :=
  bits.drop (8 * (bits.length / 8))

/-- Append bits to `bitbuf` and emit every byte they complete (20_memory.md R53). -/
def putBits (bits : List Bool) (s : State) : State :=
  { emit (wholeBytes (s.work.bitbuf ++ bits)) s with
    work := { s.work with bitbuf := bitsLeft (s.work.bitbuf ++ bits) } }

/-- `BitWrite(v, w)` (20_memory.md R53). -/
def bitWrite (v w : Nat) (s : State) : State :=
  putBits (natToBits v w) s

/-- Pad `bitbuf` with zero bits to a byte boundary and emit it (42_lzw.md R155, R161). -/
def padBits (s : State) : State :=
  putBits (List.replicate ((8 - s.work.bitbuf.length % 8) % 8) false) s

/-! ## Start and end of a command -/

/-- Starting any command empties OUT and initialises WORK (70_reset_and_hazards.md R287, 10_state.md R28, R30; log 11). -/
def startCommand (s : State) : State :=
  { s with out := [], work := Work.initial }

/-- The start of ENCODE, DECODE and DECODELEN (40_registry_factory.md R104): `limit` is the new MAXLEN, `none` for ENCODE,
which does not write it (10_state.md R40). -/
def startData (input : Bytes) (limit : Option Int) (s : State) : State :=
  { startCommand s with input := input, ip := 0, maxLen := limit.getD s.maxLen }

/-- A command ends `ok`: STATUS is OK and OUT is delivered (10_state.md R25, R28); RESULT is unspecified after every
command but LIST and SUPPORTS (10_state.md R26; log 9). -/
def endOk (s : State) : State :=
  { s with status := .ok, result := Config.freeResult s.free, free := s.free + 1 }

/-- LIST and SUPPORTS end `ok` with RESULT written (10_state.md R26). -/
def endQuery (r : RegResult) (s : State) : State :=
  { s with status := .ok, result := r }

/-- `raise`, entry into an error (60_exceptions.md R269): STATUS is written, OUT discarded, INST kept; WORK, ip and MAXLEN
are unspecified afterwards (log 8), RESULT as after every such command (log 9). No handler runs and nothing is saved; there
is no return (60_exceptions.md R270). -/
def endError (e : EngineError) (s : State) : State :=
  { s with
    status := .error e
    out := []
    work := Config.freeWork s.free
    ip := Config.freeIp s.free
    maxLen := Config.freeMaxLen s.free
    result := Config.freeResult s.free
    free := s.free + 1 }

/-- `refuse` (60_exceptions.md R266, 40_registry_factory.md R110): STATUS changes and nothing else, OUT is empty (log 8);
RESULT is unspecified as after every such command (log 9). -/
def endRefusal (r : EngineRefusal) (s : State) : State :=
  { s with status := .refusal r, out := [], result := Config.freeResult s.free, free := s.free + 1 }

/-! ## The codec loop -/

/-- The stopping predicate `checkBufLen` (47_bounded_decode.md R241): true means keep decoding. -/
def checkBufLen (len : Nat) (maxLen : Int) : Bool :=
  decide (maxLen < 0 ∨ (len : Int) < maxLen)

/-- A codec's loop: before each round `checkBufLen` is evaluated on OUT and the limit (47_bounded_decode.md R248; a
negative limit never stops it, R241), then `body` runs; `atEnd` says what follows the last round. -/
def loop (limit : Int) (body atEnd : State → Flow) : Nat → State → Flow
  | 0, s => if checkBufLen s.out.length limit then atEnd s else .stop s
  | n + 1, s =>
    if checkBufLen s.out.length limit then
      match body s with
      | .more s' => loop limit body atEnd n s'
      | .stop s' => .stop s'
      | .raise e s' => .raise e s'
      | .refuse r s' => .refuse r s'
      | .exceeds => .exceeds
      | .stuck => .stuck
    else .stop s

/-- The loop over the symbols of IN. Every round consumes at least one byte or nine bits, or ends the loop, so
`len(IN) + 1` rounds are enough (70_reset_and_hazards.md R289; log 23). -/
def symbolLoop (limit : Int) (body : State → Flow) (s : State) : Flow :=
  loop limit body Flow.more (s.input.length + 1) s

/-! ## Outcomes -/

/-- Whether a length fits a capacity of the configuration (92_eei_decisions.md D9). -/
def fitsCapacity (cap : Option Nat) (len : Nat) : Bool :=
  match cap with
  | none => true
  | some n => decide (len ≤ n)

/-- Whether an integer fits PARAM_BITS, two's complement (10_state.md R22). -/
def fitsParamBits (bits : Option Nat) (v : Int) : Bool :=
  match bits with
  | none => true
  | some b => decide (-(2 ^ (b - 1) : Int) ≤ v ∧ v < (2 ^ (b - 1) : Int))

/-- The outcome of one in-stream symbol: where the command goes on, the state it goes on from. -/
def settleSymbol : Flow → Host.Outcome State Fault Refusal
  | .more s => .next s
  | .stop s => if fitsCapacity s.cfg.maxOut s.out.length then .next (endOk s) else .refused .capacityExceeded
  | .raise e s => .next (endError e s)
  | .refuse r s => .next (endRefusal r s)
  | .exceeds => .refused .capacityExceeded
  | .stuck => .fault .noCode

/-- The outcome of a whole command: as of its last symbol, but a command does not end in mid-stream. -/
def settleCommand : Flow → Host.Outcome State Fault Refusal
  | .more _ => .fault .loopBound
  | .stop s => settleSymbol (.stop s)
  | .raise e s => settleSymbol (.raise e s)
  | .refuse r s => settleSymbol (.refuse r s)
  | .exceeds => settleSymbol .exceeds
  | .stuck => settleSymbol .stuck

/-- ENCODE, DECODE and DECODELEN around the codec's own rule `body` (40_registry_factory.md R104, 47_bounded_decode.md
R240): operands that do not fit (logs 14, 15), then `refuse E_NO_INSTANCE`, then the codec (60_exceptions.md R268). -/
def dataCommand (input : Bytes) (limit : Option Int) (body : State → Flow) (s : State) :
    Host.Outcome State Fault Refusal :=
  if fitsCapacity s.cfg.maxIn input.length = false then .refused .capacityExceeded
  else if (limit.all (fitsParamBits s.cfg.paramBits)) = false then .next (endRefusal .badCommand s)
  else if s.inst.valid = false then .next (endRefusal .noInstance s)
  else settleCommand (body (startData input limit s))

end Sys2Proof.Machine
end

