-- ==== Sys2Proof/Machine/Operands.lean ====
section
/-! DEFINITION. The operand forms: parameters and their defaults, RowGeometry, the validation sequence
(10_state.md R23; 40_registry_factory.md R106 to R109), and the storing of a parameter map (R103). -/

namespace Sys2Proof.Machine

/-- The register of a key (10_state.md R21). -/
def parmReg (i : Inst) : ParmKey → Parm
  | .predictor => i.predictor
  | .colors => i.colors
  | .bitsPerComponent => i.bitsPerComponent
  | .columns => i.columns

/-- The documented defaults (10_state.md R23). -/
def parmDefault : ParmKey → Int
  | .predictor => 1
  | .colors => 1
  | .bitsPerComponent => 8
  | .columns => 1

/-- `HasParm(k)` (10_state.md R23). -/
def hasParm (i : Inst) (k : ParmKey) : Bool :=
  i.hasMap && (parmReg i k).present

/-- `Parm(k)` (10_state.md R23). -/
def parm (i : Inst) (k : ParmKey) : Int :=
  if hasParm i k then (parmReg i k).value else parmDefault k

/-- `max(1, ceil(colors * bpc / 8))` (40_registry_factory.md R107). DESIGN CHOICE (log 32) for parameters that do not pass R109:
the same formula, a product below 1 clamped to 1. -/
def bytesPerPixelOf (colors bpc : Int) : Nat :=
  max 1 ((colors * bpc + 7) / 8).toNat

/-- bytesPerPixel of an instance (40_registry_factory.md R106, R107). -/
def bytesPerPixel (i : Inst) : Nat :=
  bytesPerPixelOf (parm i .colors) (parm i .bitsPerComponent)

/-- `columns * bytesPerPixel` (40_registry_factory.md R107). DESIGN CHOICE (log 32) for `columns` below 1, which R107 does not
define: 0. -/
def rowBytes (i : Inst) : Nat :=
  (parm i .columns).toNat * bytesPerPixel i

/-- The TIFF stride, `colors` bytes whatever `bpc` is (41_predictor.md R122). DESIGN CHOICE (log 32) for `colors` below 1, which
R122 excludes: 0. -/
def stride (i : Inst) : Nat :=
  (parm i .colors).toNat

/-- The simple predictor family (40_registry_factory.md R108). -/
def isSimple (p : Int) : Bool :=
  decide (p = 1 ∨ p = 2)

/-- The PNG predictor family (40_registry_factory.md R108). -/
def isPng (p : Int) : Bool :=
  decide (10 ≤ p ∧ p ≤ 15)

/-- Legal BitsPerComponent values (00_scope.md R7). -/
def isBpc (b : Int) : Bool :=
  decide (b = 1 ∨ b = 2 ∨ b = 4 ∨ b = 8 ∨ b = 16)

/-- `ValidateParms(kind)`: the first check that fails, in the order of 40_registry_factory.md R109. -/
def validateParms (kind : Kind) (i : Inst) : Option EngineError :=
  if isSimple (parm i .predictor) = false ∧ isPng (parm i .predictor) = false then some .undefinedPredictor
  else if kind = .lzw ∧ isPng (parm i .predictor) = true then some .unsupportedPredictor
  else if parm i .colors ≤ 0 then some .colors
  else if isBpc (parm i .bitsPerComponent) = false then some .bpc
  else if parm i .columns < 1 then some .columns
  else none

/-- The value of a key in the host's map: exact, case-sensitive string equality (30_encoding.md R74). -/
def mapValue (parms : Option ParmMap) (k : ParmKey) : Option Int :=
  match parms with
  | none => none
  | some m => m.lookup k.keyString

/-- `INST.P[k]` written from the map: PRESENT always, VALUE when the key is there (40_registry_factory.md R103). -/
def storeParm (parms : Option ParmMap) (k : ParmKey) (old : Parm) : Parm :=
  match mapValue parms k with
  | none => { old with present := false }
  | some v => ⟨true, v⟩

/-- INST after a successful NEWFILTER (40_registry_factory.md R103). -/
def constructInst (kind : Kind) (parms : Option ParmMap) (old : Inst) : Inst where
  valid := true
  kind := kind
  hasMap := parms.isSome
  predictor := storeParm parms .predictor old.predictor
  colors := storeParm parms .colors old.colors
  bitsPerComponent := storeParm parms .bitsPerComponent old.bitsPerComponent
  columns := storeParm parms .columns old.columns

/-- Whether every value of the four keys fits PARAM_BITS (10_state.md R22). -/
def parmsFit (bits : Option Nat) (parms : Option ParmMap) : Bool :=
  [ParmKey.predictor, .colors, .bitsPerComponent, .columns].all fun k =>
    (mapValue parms k).all (fitsParamBits bits)

end Sys2Proof.Machine
end

