-- ==== Sys2Proof/Machine/Bounded.lean ====
section
/-! DEFINITION. Bounded decode (47_bounded_decode.md): the trace of a decode, the relation `BoundedOk` on results, and how
DECODELEN ends under each value of BOUNDED_STOP. A codec gives two rules: `full`, its decode rule, and `lazy`, the same
rule run unit by unit under a limit; `lazy` with the limit -1 is the trace of R247. -/

namespace Sys2Proof.Machine

/-- The result of a decode: `ok(bytes)` or `fault(e)` (00_scope.md R13). -/
abbrev DecodeResult := Except EngineError Bytes

/-- `DecodeTrace`: the bytes a lazy decoder has produced and how it ends, `none` for `ok` (47_bounded_decode.md R247). -/
abbrev Trace := Bytes × Option EngineError

/-- The trace a run of the lazy rule leaves; `none` where the run does not end `ok` or in an error. -/
def Flow.trace : Flow → Option Trace
  | .stop s => some (s.out, none)
  | .raise e s => some (s.out, some e)
  | .more _ => none
  | .refuse _ _ => none
  | .exceeds => none
  | .stuck => none

/-- The relation `BoundedOk` for `n >= 0` on a trace (47_bounded_decode.md R243). -/
def BoundedOk (t : Trace) (n : Nat) (r : DecodeResult) : Prop :=
  match t.2 with
  | none => ∃ p, r = .ok p ∧ p <+: t.1 ∧ min n t.1.length ≤ p.length
  | some e =>
    r = .error e ∨ (alwaysReported e = false ∧ ∃ p, r = .ok p ∧ p <+: t.1 ∧ n ≤ p.length)

/-- `DecodeLenExact`: everything is decoded, every error reported, the output cut to `n` bytes (R244). -/
def cutExact (n : Nat) : Flow → Flow
  | .stop s => .stop { s with out := s.out.take n }
  | .more s => .more s
  | .raise e s => .raise e s
  | .refuse r s => .refuse r s
  | .exceeds => .exceeds
  | .stuck => .stuck

/-- The result that the choice `c` picks among those R243 allows for the trace: a clean decode may run any length past
`n`, an error that is not always reported may be hidden once `n` bytes are there. DESIGN CHOICE (log 13): ip and WORK are
left as at the end of the whole trace, also behind a hidden error. -/
def cutChosen (n : Nat) (c : Option Nat) : Flow → Flow
  | .stop s => .stop { s with out := s.out.take (max n (c.getD 0)) }
  | .raise e s =>
    match c with
    | none => .raise e s
    | some l =>
      if alwaysReported e = false ∧ n ≤ s.out.length then .stop { s with out := s.out.take (max n l) } else .raise e s
  | .more s => .more s
  | .refuse r s => .refuse r s
  | .exceeds => .exceeds
  | .stuck => .stuck

/-- The case of a bounded decode on an instance (R243): the parameters are those the kind reads (40_registry_factory.md R105,
R106). -/
def stopCase (kind : Kind) (s : State) : StopCase where
  kind := kind
  parms :=
    match kind with
    | .lzw | .flate => [parm s.inst .predictor, parm s.inst .colors, parm s.inst .bitsPerComponent, parm s.inst .columns]
    | .ascii85 | .asciiHex | .runLength => []
  input := s.input
  limit := s.maxLen.toNat

/-- The choice of `choose known` for a case (D40; log 13). -/
def chosenStop (known : List (StopCase × Option Nat)) (c : StopCase) : Option Nat :=
  match known.lookup c with
  | some choice => choice
  | none => Config.freeStop c

/-- DECODELEN after dispatch (R240): a negative MAXLEN decodes everything (R242), else BOUNDED_STOP decides (R243, R244,
R248; log 13). -/
def boundedDecode (kind : Kind) (full : State → Flow) (lazy : Int → State → Flow) (s : State) : Flow :=
  if s.maxLen < 0 then full s
  else
    match s.cfg.boundedStop with
    | .exact => cutExact s.maxLen.toNat (full s)
    | .lazy => lazy s.maxLen s
    | .choose known => cutChosen s.maxLen.toNat (chosenStop known (stopCase kind s)) (lazy (-1) s)

end Sys2Proof.Machine
end

