-- ==== Sys2Proof/Machine/Ascii85.lean ====
section
/-! DEFINITION. The ASCII85 codec (44_ascii85.md): digit arithmetic, the symbols, the decode and the encoder. -/

namespace Sys2Proof.Machine

/-! ## Arithmetic (44_ascii85.md R191) -/

/-- The five base-85 digits of a word, most significant first. -/
def a85Digits (v : Nat) : List Nat :=
  [v / 52200625, v / 614125 % 85, v / 7225 % 85, v / 85 % 85, v % 85]

/-- The number that digits stand for, most significant first; on five digits the weights are those of R80. -/
def a85Value (digits : List Nat) : Nat :=
  digits.foldl (fun v d => 85 * v + d) 0

/-- The number of four bytes, the first most significant. -/
def a85Word (l : Bytes) : Nat :=
  l.foldl (fun v b => 256 * v + b.toNat) 0

/-- `v[31:24], v[23:16], v[15:8], v[7:0]` (30_encoding.md R80). -/
def wordBytes (v : Nat) : Bytes :=
  [BitVec.ofNat 8 (v / 16777216), BitVec.ofNat 8 (v / 65536), BitVec.ofNat 8 (v / 256), BitVec.ofNat 8 v]

/-- The largest 32-bit word, the bound on a group's value (30_encoding.md R80). -/
def maxWord : Nat := 4294967295

/-! ## Symbols: the byte has been read, `ip` is past it -/

/-- Replace the group in progress. -/
def setGroup (g : List Nat) (s : State) : State :=
  { s with work := { s.work with group := g } }

/-- `A85.DIGIT` (44_ascii85.md R195, R198); a byte that is no digit is illegal (R197). DESIGN CHOICE (log 34) on a register
outside 10_state.md R34: to a group of 5 or more entries the digit is appended, and an entry above 84 counts like a digit. -/
def a85Digit (ch : Byte) (s : State) : Flow :=
  if isA85Digit ch = false then .raise .a85Invalid s
  else
    let g := s.work.group ++ [ch.toNat - 33]
    if g.length = 5 then
      if maxWord < a85Value g then .raise .a85Invalid s
      else .more (setGroup [] (emit (wordBytes (a85Value g)) s))
    else .more (setGroup g s)

/-- `A85.Z` (44_ascii85.md R194). -/
def a85Z (s : State) : Flow :=
  if s.work.group = [] then .more (emit [0, 0, 0, 0] s) else .raise .a85Invalid s

/-- `A85.WS` (44_ascii85.md R193). For a byte outside `WS`, which is never decoded to it, the rule says nothing: DESIGN
CHOICE, it is illegal (log 27). -/
def a85Ws (ch : Byte) (s : State) : Flow :=
  if ch ∈ whiteSpace then .more s else .raise .a85Invalid s

/-- An illegal byte (44_ascii85.md R197). -/
def a85Illegal (_ch : Byte) (s : State) : Flow :=
  .raise .a85Invalid s

/-- `A85.EOD`: the final group (44_ascii85.md R196), then `end ok` (R192). R196 writes no `g`, so a partial group stays in its
register (DEDUCED, log 17). DESIGN CHOICE (log 34) on a register outside 10_state.md R34: a group of 5 or more entries is not
padded and gives at most 4 bytes, and an entry above 84 counts like a digit. -/
def a85Eod (s : State) : Flow :=
  let g := s.work.group
  if g.length = 0 then .stop s
  else if g.length = 1 then .raise .a85Invalid s
  else
    let v := a85Value (g ++ List.replicate (5 - g.length) 84)
    if maxWord < v then .raise .a85Invalid s
    else .stop (emit ((wordBytes v).take (g.length - 1)) s)

/-- The terminator search: the least index of the bytes `7E 3E` (44_ascii85.md R192, 20_memory.md R63). -/
def findEod : Bytes → Option Nat
  | a :: b :: rest => if a = 0x7E ∧ b = 0x3E then some 0 else (findEod (b :: rest)).map (· + 1)
  | [_] => none
  | [] => none

/-- One symbol of the scan, whose end is `eodpos` (44_ascii85.md R192). DEDUCED (log 17): the cursor moves past the terminator,
two bytes (30_encoding.md R86, 10_state.md R24). -/
def a85Next (s : State) : Flow :=
  if s.ip = s.work.eodpos then a85Eod { s with ip := s.ip + 2 }
  else
    match inByte s with
    | none => .raise .a85MissingEod s
    | some (b, s') =>
      a85Cases b (fun ch => a85Digit ch s') (a85Z s') (fun ch => a85Ws ch s') (fun ch => a85Illegal ch s')

/-- The decode rule (44_ascii85.md R192) under a limit: the terminator is searched for first. -/
def a85DecodeLazy (limit : Int) (s : State) : Flow :=
  match findEod s.input with
  | none => .raise .a85MissingEod s
  | some p => symbolLoop limit a85Next { s with work := { s.work with eodpos := p } }

/-- The decode rule (44_ascii85.md R192). -/
def a85Decode (s : State) : Flow :=
  a85DecodeLazy (-1) s

/-! ## The encoder -/

/-- The characters of the first `n` digits of a word (44_ascii85.md R200, R201). -/
def a85Chars (v n : Nat) : Bytes :=
  ((a85Digits v).take n).map fun d => BitVec.ofNat 8 (d + 33)

/-- One full group, or the partial group and the terminator (44_ascii85.md R200 to R202). -/
def a85EncodeNext (s : State) : Flow :=
  match memRead s.input s.ip 4 with
  | some w =>
    .more { emit (if a85Word w = 0 then [0x7A] else a85Chars (a85Word w) 5) s with ip := s.ip + 4 }
  | none =>
    let tail := s.input.drop s.ip
    let part := if tail = [] then [] else a85Chars (a85Word (tail ++ List.replicate (4 - tail.length) 0)) (tail.length + 1)
    .stop { emit (part ++ [0x7E, 0x3E]) s with ip := s.ip + tail.length }

/-- ENCODE on an ASCII85 instance (44_ascii85.md R200). -/
def a85Encode (s : State) : Flow :=
  symbolLoop (-1) a85EncodeNext s

/-! ## Meanings -/

/-- A85.DIGIT. -/
def execA85Digit (ch : Byte) (s : State) : Host.Outcome State Fault Refusal :=
  settleSymbol (a85Digit ch s)

/-- A85.Z. -/
def execA85Z (s : State) : Host.Outcome State Fault Refusal :=
  settleSymbol (a85Z s)

/-- A85.EOD. -/
def execA85Eod (s : State) : Host.Outcome State Fault Refusal :=
  settleSymbol (a85Eod s)

/-- A85.WS. -/
def execA85Ws (ch : Byte) (s : State) : Host.Outcome State Fault Refusal :=
  settleSymbol (a85Ws ch s)

/-- A85.ILLEGAL. -/
def execA85Illegal (ch : Byte) (s : State) : Host.Outcome State Fault Refusal :=
  settleSymbol (a85Illegal ch s)

/-- ENCODE.ASCII85. -/
def execEncodeAscii85 (input : Bytes) (s : State) : Host.Outcome State Fault Refusal :=
  dataCommand input none a85Encode s

/-- DECODE.ASCII85, which is DECODELEN with `maxLen` -1 (30_encoding.md R88). -/
def execDecodeAscii85 (input : Bytes) (s : State) : Host.Outcome State Fault Refusal :=
  dataCommand input (some (-1)) a85Decode s

/-- DECODELEN.ASCII85. -/
def execDecodelenAscii85 (maxLen : Int) (input : Bytes) (s : State) : Host.Outcome State Fault Refusal :=
  dataCommand input (some maxLen) (boundedDecode .ascii85 a85Decode a85DecodeLazy) s

end Sys2Proof.Machine
end

