-- ==== Sys2Proof/Machine/AsciiHex.lean ====
section
/-! DEFINITION. The ASCIIHex codec (45_asciihex.md): the symbols, the decode and the encoder. -/

namespace Sys2Proof.Machine

/-! ## Symbols: the byte has been read, `ip` is past it -/

/-- Replace the pending digit `hi`. -/
def setHi (hi : Option (BitVec 4)) (s : State) : State :=
  { s with work := { s.work with hi := hi } }

/-- `HEX.DIGIT` (45_asciihex.md R213); a byte that is no digit is illegal (R216). -/
def hexDigit (ch : Byte) (s : State) : Flow :=
  match hexVal ch with
  | none => .raise .hexInvalid s
  | some v =>
    match s.work.hi with
    | none => .more (setHi (some v) s)
    | some h => .more (setHi none (emit [h ++ v] s))

/-- `HEX.EOD` with the lone trailing digit of R214 (45_asciihex.md R215). R214 writes no `hi`, so the digit stays in its register
(DEDUCED, log 17). -/
def hexEod (s : State) : Flow :=
  match s.work.hi with
  | none => .stop s
  | some h => .stop (emit [h ++ 0#4] s)

/-- `HEX.WS` (45_asciihex.md R212). For a byte outside `WS`, which is never decoded to it, the rule says nothing: DESIGN
CHOICE, it is illegal (log 27). -/
def hexWs (ch : Byte) (s : State) : Flow :=
  if ch ∈ whiteSpace then .more s else .raise .hexInvalid s

/-- An illegal byte (45_asciihex.md R216). -/
def hexIllegal (_ch : Byte) (s : State) : Flow :=
  .raise .hexInvalid s

/-- One byte (45_asciihex.md R211, R217). -/
def hexNext (s : State) : Flow :=
  match inByte s with
  | none => .raise .hexMissingEod s
  | some (b, s') =>
    hexCases b (fun ch => hexDigit ch s') (hexEod s') (fun ch => hexWs ch s') (fun ch => hexIllegal ch s')

/-- The decode rule (45_asciihex.md R211) under a limit. -/
def hexDecodeLazy (limit : Int) (s : State) : Flow :=
  symbolLoop limit hexNext s

/-- The decode rule (45_asciihex.md R211). -/
def hexDecode (s : State) : Flow :=
  hexDecodeLazy (-1) s

/-! ## The encoder -/

/-- `HexChar(n)`, lower case (45_asciihex.md R219). -/
def hexChar (n : BitVec 4) : Byte :=
  if n ≤ 9 then 0x30 + n.setWidth 8 else 0x61 + n.setWidth 8 - 10

/-- The two characters of a byte, high nibble first (45_asciihex.md R219). -/
def hexChars (b : Byte) : Bytes :=
  [hexChar (b.extractLsb' 4 4), hexChar (b.extractLsb' 0 4)]

/-- One byte of the encoder, or the terminator at the end of the input (45_asciihex.md R219). -/
def hexEncodeNext (s : State) : Flow :=
  match inByte s with
  | none => .stop (emit [0x3E] s)
  | some (b, s') => .more (emit (hexChars b) s')

/-- ENCODE on an ASCIIHex instance (45_asciihex.md R219). -/
def hexEncode (s : State) : Flow :=
  symbolLoop (-1) hexEncodeNext s

/-! ## Meanings -/

/-- HEX.DIGIT. -/
def execHexDigit (ch : Byte) (s : State) : Host.Outcome State Fault Refusal :=
  settleSymbol (hexDigit ch s)

/-- HEX.EOD. -/
def execHexEod (s : State) : Host.Outcome State Fault Refusal :=
  settleSymbol (hexEod s)

/-- HEX.WS. -/
def execHexWs (ch : Byte) (s : State) : Host.Outcome State Fault Refusal :=
  settleSymbol (hexWs ch s)

/-- HEX.ILLEGAL. -/
def execHexIllegal (ch : Byte) (s : State) : Host.Outcome State Fault Refusal :=
  settleSymbol (hexIllegal ch s)

/-- ENCODE.ASCIIHEX. -/
def execEncodeAsciihex (input : Bytes) (s : State) : Host.Outcome State Fault Refusal :=
  dataCommand input none hexEncode s

/-- DECODE.ASCIIHEX, which is DECODELEN with `maxLen` -1 (30_encoding.md R88). -/
def execDecodeAsciihex (input : Bytes) (s : State) : Host.Outcome State Fault Refusal :=
  dataCommand input (some (-1)) hexDecode s

/-- DECODELEN.ASCIIHEX. -/
def execDecodelenAsciihex (maxLen : Int) (input : Bytes) (s : State) : Host.Outcome State Fault Refusal :=
  dataCommand input (some maxLen) (boundedDecode .asciiHex hexDecode hexDecodeLazy) s

end Sys2Proof.Machine
end

