-- ==== Sys2Proof/Machine/Predictor.lean ====
section
/-! DEFINITION. The predictor engine (41_predictor.md): horizontal differencing, the PNG row filters, and the drivers that
apply them to the decompressed buffer RAW. -/

namespace Sys2Proof.Machine

/-! ## Row reconstruction -/

/-- A row rebuilt byte by byte in ascending order: `f out raw` gives the next byte from the bytes rebuilt so far and the
raw byte (41_predictor.md R122, R124; 70_reset_and_hazards.md R286). -/
def buildRow (f : Bytes → Byte → Byte) : Bytes → Bytes → Bytes
  | out, [] => out
  | out, r :: rest => buildRow f (out ++ [f out r]) rest

/-- `HorDiff(row, colors)` (41_predictor.md R122); byte addition is modulo 256 (R121). DESIGN CHOICE (log 32) for `colors` 0,
which R122 excludes: the row unchanged. -/
def horDiff (colors : Nat) (row : Bytes) : Bytes :=
  buildRow (fun out r => if out.length < colors then r else r + out.getD (out.length - colors) 0) [] row

/-- `a(x)`: left neighbour in the row being rebuilt, `x = len(out)` (41_predictor.md R124). -/
def leftOf (bpp : Nat) (out : Bytes) : Byte :=
  if out.length < bpp then 0 else out.getD (out.length - bpp) 0

/-- `b(x)`: the byte above (41_predictor.md R124). DESIGN CHOICE (log 33) past the end of a previous row that is too short,
which 10_state.md R31 excludes: 0. -/
def aboveOf (prev : Option Bytes) (out : Bytes) : Byte :=
  match prev with
  | none => 0
  | some p => p.getD out.length 0

/-- `c(x)`: the upper left byte (41_predictor.md R124). DESIGN CHOICE (log 33) past the end of a previous row that is too
short: 0. -/
def upperLeftOf (bpp : Nat) (prev : Option Bytes) (out : Bytes) : Byte :=
  match prev with
  | none => 0
  | some p => if out.length < bpp then 0 else p.getD (out.length - bpp) 0

/-- The Average term, halved on the unreduced sum (41_predictor.md R121, R128). -/
def averageTerm (a b : Byte) : Byte :=
  BitVec.ofNat 8 ((a.toNat + b.toNat) / 2)

/-- `Paeth(a, b, c)` in signed arithmetic without wraparound, ties in the order a, b, c (41_predictor.md R130). -/
def paeth (a b c : Byte) : Byte :=
  let p : Int := (a.toNat : Int) + b.toNat - c.toNat
  let pa := (p - a.toNat).natAbs
  let pb := (p - b.toNat).natAbs
  let pc := (p - c.toNat).natAbs
  if pa ≤ pb ∧ pa ≤ pc then a else if pb ≤ pc then b else c

/-- `PNG.NONE` on a row (41_predictor.md R125). -/
def noneRow (_bpp : Nat) (_prev : Option Bytes) (raw : Bytes) : Bytes :=
  buildRow (fun _ r => r) [] raw

/-- `PNG.SUB` on a row (41_predictor.md R126). -/
def subRow (bpp : Nat) (_prev : Option Bytes) (raw : Bytes) : Bytes :=
  buildRow (fun out r => r + leftOf bpp out) [] raw

/-- `PNG.UP` on a row (41_predictor.md R127). -/
def upRow (_bpp : Nat) (prev : Option Bytes) (raw : Bytes) : Bytes :=
  buildRow (fun out r => r + aboveOf prev out) [] raw

/-- `PNG.AVG` on a row (41_predictor.md R128). -/
def avgRow (bpp : Nat) (prev : Option Bytes) (raw : Bytes) : Bytes :=
  buildRow (fun out r => r + averageTerm (leftOf bpp out) (aboveOf prev out)) [] raw

/-- `PNG.PAETH` on a row (41_predictor.md R129). -/
def paethRow (bpp : Nat) (prev : Option Bytes) (raw : Bytes) : Bytes :=
  buildRow (fun out r => r + paeth (leftOf bpp out) (aboveOf prev out) (upperLeftOf bpp prev out)) [] raw

/-! ## Symbols: one row of RAW -/

/-- A row filter applied to the data bytes of chunk `rowIndex`: the row is emitted and becomes the previous row
(41_predictor.md R131). A chunk that is not whole has no row (R131, 20_memory.md R54); DESIGN CHOICE (log 34) where RAW has no
chunk at the row index: the same error. -/
def pngRow (filter : Nat → Option Bytes → Bytes → Bytes) (s : State) : Flow :=
  let chunk := 1 + rowBytes s.inst
  match memRead s.work.raw (s.work.rowIndex * chunk + 1) (rowBytes s.inst) with
  | none => .raise .predictorData s
  | some raw =>
    let row := filter (bytesPerPixel s.inst) s.work.prevRow raw
    .more
      { emit row s with
        work := { s.work with prevRow := some row, curRow := row, rowIndex := s.work.rowIndex + 1 } }

/-- `PNG.NONE` (41_predictor.md R125). -/
def pngNone (s : State) : Flow := pngRow noneRow s

/-- `PNG.SUB` (41_predictor.md R126). -/
def pngSub (s : State) : Flow := pngRow subRow s

/-- `PNG.UP` (41_predictor.md R127). -/
def pngUp (s : State) : Flow := pngRow upRow s

/-- `PNG.AVG` (41_predictor.md R128). -/
def pngAvg (s : State) : Flow := pngRow avgRow s

/-- `PNG.PAETH` (41_predictor.md R129). -/
def pngPaeth (s : State) : Flow := pngRow paethRow s

/-- An illegal tag (41_predictor.md R132). -/
def pngIllegal (_tag : Byte) (s : State) : Flow :=
  .raise .predictorData s

/-- One chunk: the tag byte names the row filter, whatever the Predictor value is (41_predictor.md R131, R133). -/
def pngNext (s : State) : Flow :=
  match s.work.raw[s.work.rowIndex * (1 + rowBytes s.inst)]? with
  | none => .raise .predictorData s
  | some tag =>
    pngCases tag (pngNone s) (pngSub s) (pngUp s) (pngAvg s) (pngPaeth s) (fun t => pngIllegal t s)

/-- `TIFF.HDIFF` on row `rowIndex` of RAW (41_predictor.md R122, R123); there is no state across rows, and the space ROW is not
written: 20_memory.md R50 gives it to the rules R124 to R131 alone. DESIGN CHOICE (log 34) where RAW has no whole row at the
row index, which R123 excludes: E_PREDICTOR_DATA. -/
def tiffHdiff (s : State) : Flow :=
  match memRead s.work.raw (s.work.rowIndex * rowBytes s.inst) (rowBytes s.inst) with
  | none => .raise .predictorData s
  | some raw =>
    let row := horDiff (stride s.inst) raw
    .more { emit row s with work := { s.work with rowIndex := s.work.rowIndex + 1 } }

/-! ## Drivers over the whole buffer -/

/-- Rows are counted from 0 (41_predictor.md R123, R131; 10_state.md R31). -/
def startRows (s : State) : State :=
  { s with work := { s.work with rowIndex := 0 } }

/-- The first chunk has no previous row (41_predictor.md R131). -/
def startChunks (s : State) : State :=
  { s with work := { s.work with prevRow := none } }

/-- The rows of RAW, `frame` bytes each, under a limit; `atEnd` follows the last whole row. -/
def rowLoop (frame : Nat) (limit : Int) (body atEnd : State → Flow) (s : State) : Flow :=
  if fitsCapacity s.cfg.maxRow (rowBytes s.inst) then
    loop limit body atEnd (s.work.raw.length / frame) (startRows s)
  else .exceeds

/-- A buffer that is not a whole number of frames (41_predictor.md R123, R131; 47_bounded_decode.md R247). -/
def leftoverEnd (frame : Nat) (s : State) : Flow :=
  if s.work.raw.length % frame = 0 then .stop s else .raise .predictorData s

/-- The TIFF frame, a row (41_predictor.md R123). -/
def tiffFrame (s : State) : Nat := rowBytes s.inst

/-- The PNG frame, tag and row (41_predictor.md R131). -/
def pngFrame (s : State) : Nat := 1 + rowBytes s.inst

/-- `TiffBuffer(RAW)`: the length is tested before any row is emitted (41_predictor.md R123). -/
def tiffBuffer (s : State) : Flow :=
  if s.work.raw.length % tiffFrame s = 0 then rowLoop (tiffFrame s) (-1) tiffHdiff Flow.stop s
  else .raise .predictorData s

/-- `PngBuffer(RAW)` (41_predictor.md R131). -/
def pngBuffer (s : State) : Flow :=
  if s.work.raw.length % pngFrame s = 0 then rowLoop (pngFrame s) (-1) pngNext Flow.stop (startChunks s)
  else .raise .predictorData s

/-- The rows of a lazy TIFF decode: whole rows first, then `atEnd` (47_bounded_decode.md R247, R248). -/
def tiffRows (limit : Int) (atEnd : State → Flow) (s : State) : Flow :=
  rowLoop (tiffFrame s) limit tiffHdiff atEnd s

/-- The rows of a lazy PNG decode: whole chunks first, then the leftover test (47_bounded_decode.md R247, R248). -/
def pngRows (limit : Int) (s : State) : Flow :=
  rowLoop (pngFrame s) limit pngNext (leftoverEnd (pngFrame s)) (startChunks s)

/-- `PRED.NONE`: RAW is the output unchanged (41_predictor.md R120, R135). -/
def predNone (s : State) : Flow :=
  .stop (emit s.work.raw s)

/-- `PRED.TIFF` (41_predictor.md R120, R123). -/
def predTiff (s : State) : Flow := tiffBuffer s

/-- `PRED.PNG10` .. `PRED.PNG15` decode alike (41_predictor.md R131, R133). -/
def predPng (s : State) : Flow := pngBuffer s

/-- An undefined Predictor value (40_registry_factory.md R109). -/
def predUndefined (_v : Int) (s : State) : Flow :=
  .raise .undefinedPredictor s

/-- `ApplyPredictor(predictor, RAW)` (41_predictor.md R120). -/
def applyPredictor (s : State) : Flow :=
  predCases (parm s.inst .predictor) (predNone s) (predTiff s) (predPng s) (predPng s) (predPng s) (predPng s)
    (predPng s) (predPng s) (fun v => predUndefined v s)

/-- The same, unit by unit under a limit: the whole of RAW is one unit for Predictor 1, a row for the others
(47_bounded_decode.md R248). -/
def applyPredictorLazy (limit : Int) (s : State) : Flow :=
  predCases (parm s.inst .predictor) (predNone s) (tiffRows limit (leftoverEnd (tiffFrame s)) s) (pngRows limit s)
    (pngRows limit s) (pngRows limit s) (pngRows limit s) (pngRows limit s) (pngRows limit s)
    (fun v => predUndefined v s)

/-! ## Meanings -/

/-- PNG.NONE. -/
def execPngNone (s : State) : Host.Outcome State Fault Refusal :=
  settleSymbol (pngNone s)

/-- PNG.SUB. -/
def execPngSub (s : State) : Host.Outcome State Fault Refusal :=
  settleSymbol (pngSub s)

/-- PNG.UP. -/
def execPngUp (s : State) : Host.Outcome State Fault Refusal :=
  settleSymbol (pngUp s)

/-- PNG.AVG. -/
def execPngAvg (s : State) : Host.Outcome State Fault Refusal :=
  settleSymbol (pngAvg s)

/-- PNG.PAETH. -/
def execPngPaeth (s : State) : Host.Outcome State Fault Refusal :=
  settleSymbol (pngPaeth s)

/-- PNG.ILLEGAL. -/
def execPngIllegal (tag : Byte) (s : State) : Host.Outcome State Fault Refusal :=
  settleSymbol (pngIllegal tag s)

/-- TIFF.HDIFF. -/
def execTiffHdiff (s : State) : Host.Outcome State Fault Refusal :=
  settleSymbol (tiffHdiff s)

/-- PRED.NONE. -/
def execPredNone (s : State) : Host.Outcome State Fault Refusal :=
  settleSymbol (predNone s)

/-- PRED.TIFF. -/
def execPredTiff (s : State) : Host.Outcome State Fault Refusal :=
  settleSymbol (predTiff s)

/-- PRED.PNG10. -/
def execPredPng10 (s : State) : Host.Outcome State Fault Refusal :=
  settleSymbol (predPng s)

/-- PRED.PNG11. -/
def execPredPng11 (s : State) : Host.Outcome State Fault Refusal :=
  settleSymbol (predPng s)

/-- PRED.PNG12. -/
def execPredPng12 (s : State) : Host.Outcome State Fault Refusal :=
  settleSymbol (predPng s)

/-- PRED.PNG13. -/
def execPredPng13 (s : State) : Host.Outcome State Fault Refusal :=
  settleSymbol (predPng s)

/-- PRED.PNG14. -/
def execPredPng14 (s : State) : Host.Outcome State Fault Refusal :=
  settleSymbol (predPng s)

/-- PRED.PNG15. -/
def execPredPng15 (s : State) : Host.Outcome State Fault Refusal :=
  settleSymbol (predPng s)

/-- PRED.UNDEFINED. -/
def execPredUndefined (value : Int) (s : State) : Host.Outcome State Fault Refusal :=
  settleSymbol (predUndefined value s)

end Sys2Proof.Machine
end

