-- ==== Sys2Proof/Machine/Flate.lean ====
section
/-! DEFINITION. The Flate wrapper (43_flate.md): the DEFLATE primitive as the configuration gives it, validation,
inflation and the predictor glue, and the minimal-conformance encoder. -/

namespace Sys2Proof.Machine

/-- `Inflate(x)`: a known answer of the configuration, else the uninterpreted primitive; `none` is `err` (43_flate.md R170;
log 16). -/
def inflate (cfg : Config) (x : Bytes) : Option Bytes :=
  match cfg.inflateKnown.lookup x with
  | some answer => answer
  | none => Config.freeInflate x

/-- `Deflate(x)` (43_flate.md R170; log 16). -/
def deflate (cfg : Config) (x : Bytes) : Bytes :=
  match cfg.deflateKnown.lookup x with
  | some answer => answer
  | none => Config.freeDeflate x

/-- `FlateInflate(IN)` and what follows it (43_flate.md R174): `RAW <- r`, or E_FLATE_CORRUPT with no partial bytes. -/
def inflateThen (next : State → Flow) (s : State) : Flow :=
  match inflate s.cfg s.input with
  | none => .raise .flateCorrupt s
  | some r => next { s with work := { s.work with raw := r } }

/-- The decode rule (43_flate.md R172). -/
def flateDecode (s : State) : Flow :=
  match validateParms .flate s.inst with
  | some e => .raise e s
  | none => inflateThen applyPredictor s

/-- The decode rule unit by unit under a limit (47_bounded_decode.md R247, R248). -/
def flateDecodeLazy (limit : Int) (s : State) : Flow :=
  match validateParms .flate s.inst with
  | some e => .raise e s
  | none =>
    if checkBufLen s.out.length limit = false then .stop s
    else inflateThen (applyPredictorLazy limit) s

/-- ENCODE on a Flate instance (43_flate.md R177 to R179). -/
def flateEncode (s : State) : Flow :=
  match validateParms .flate s.inst with
  | some e => .raise e s
  | none =>
    if parm s.inst .predictor ≠ 1 then .refuse .encodePredictor s
    else .stop (emit (deflate s.cfg s.input) s)

/-! ## Meanings -/

/-- ENCODE.FLATE. -/
def execEncodeFlate (input : Bytes) (s : State) : Host.Outcome State Fault Refusal :=
  dataCommand input none flateEncode s

/-- DECODE.FLATE, which is DECODELEN with `maxLen` -1 (30_encoding.md R88). -/
def execDecodeFlate (input : Bytes) (s : State) : Host.Outcome State Fault Refusal :=
  dataCommand input (some (-1)) flateDecode s

/-- DECODELEN.FLATE. -/
def execDecodelenFlate (maxLen : Int) (input : Bytes) (s : State) : Host.Outcome State Fault Refusal :=
  dataCommand input (some maxLen) (boundedDecode .flate flateDecode flateDecodeLazy) s

end Sys2Proof.Machine
end

