-- ==== Sys2Proof/Machine/Lzw.lean ====
section
/-! DEFINITION. The LZW codec (42_lzw.md): the codes, the expansion, the bounded forms and the reference encoder. -/

namespace Sys2Proof.Machine

/-! ## Codes: the code has been read, `bp` is past it -/

/-- Expanded bytes go to OUT when the predictor is 1, to RAW otherwise (20_memory.md R51, 42_lzw.md R153). -/
def lzwEmit (l : Bytes) (s : State) : State :=
  if parm s.inst .predictor = 1 then emit l s
  else { s with work := { s.work with raw := s.work.raw ++ l } }

/-- The dictionary entry `table[c]`, defined exactly for `258 <= c < next` (10_state.md R32). -/
def tableEntry (w : Work) (c : Nat) : Option Bytes :=
  if 258 ≤ c ∧ c < w.next then w.table[w.next - 1 - c]? else none

/-- The table update of a data code whose string is `str` (42_lzw.md R148): one new entry, but for the first data code. -/
def lzwGrow (str : Bytes) (w : Work) : Work :=
  match w.prev with
  | none => { w with prev := some str }
  | some p => { w with table := (p ++ str.take 1) :: w.table, next := w.next + 1, prev := some str }

/-- The early-change width increment (42_lzw.md R151). -/
def lzwWiden (w : Work) : Work :=
  if w.width < 12 ∧ 2 ^ w.width ≤ w.next + 1 then { w with width := w.width + 1 } else w

/-- A data code whose string is `str` (42_lzw.md R142); with the table full it is illegal (R152). DESIGN CHOICE (log 34) on
working registers outside 10_state.md R32: the same formulas. -/
def lzwData (str : Bytes) (s : State) : Flow :=
  if s.work.next = 4096 then .raise .lzwCorrupt s
  else
    let s' := lzwEmit str s
    .more { s' with work := lzwWiden (lzwGrow str s'.work) }

/-- `LZW.LIT` (42_lzw.md R146). -/
def lzwLit (code : Byte) (s : State) : Flow :=
  lzwData [code] s

/-- `LZW.CLEAR` (42_lzw.md R143). -/
def lzwClear (s : State) : Flow :=
  .more { s with work := { s.work with width := 9, next := 258, prev := none, table := [] } }

/-- `LZW.REF` (42_lzw.md R147); a code that names no entry is illegal (R149), also where the entry is missing from a table that
does not match `next` (DESIGN CHOICE, log 34). -/
def lzwRef (code : BitVec 12) (s : State) : Flow :=
  match tableEntry s.work code.toNat with
  | none => .raise .lzwCorrupt s
  | some str => lzwData str s

/-- `LZW.KWKWK`: the entry about to be defined (42_lzw.md R148); legal only for `code = next` with a previous string (R149). -/
def lzwKwkwk (code : BitVec 12) (s : State) : Flow :=
  match s.work.prev with
  | none => .raise .lzwCorrupt s
  | some p => if code.toNat = s.work.next then lzwData (p ++ p.take 1) s else .raise .lzwCorrupt s

/-- An illegal code (42_lzw.md R149, R152). -/
def lzwIllegal (_code : BitVec 12) (s : State) : Flow :=
  .raise .lzwCorrupt s

/-- The end of the expansion: with Predictor 1 OUT is complete, otherwise RAW goes through the TIFF predictor
(42_lzw.md R140, R153). -/
def lzwHandOver (s : State) : Flow :=
  if parm s.inst .predictor = 1 then .stop s else tiffBuffer s

/-- `LZW.EOD` (42_lzw.md R145). -/
def lzwEod (s : State) : Flow :=
  lzwHandOver s

/-- One code of the expansion loop; `atEod` follows the end-of-data code (42_lzw.md R142, R144). -/
def lzwNext (atEod : State → Flow) (s : State) : Flow :=
  match bitRead s.input s.work.bp s.work.width with
  | none => .raise .lzwCorrupt s
  | some c =>
    let s' := { s with work := { s.work with bp := s.work.bp + s.work.width } }
    lzwCases s.work.next s.work.prev.isSome c (fun b => lzwLit b s') (lzwClear s') (atEod s')
      (fun code => lzwRef code s') (fun code => lzwKwkwk code s') (fun code => lzwIllegal code s')

/-- The decode rule (42_lzw.md R140). -/
def lzwDecode (s : State) : Flow :=
  match validateParms .lzw s.inst with
  | some e => .raise e s
  | none => symbolLoop (-1) (lzwNext lzwEod) s

/-- The decode rule unit by unit under a limit: a code is the unit for Predictor 1, a row for Predictor 2; the rows of what
was expanded before an error are emitted first (47_bounded_decode.md R247, R248). -/
def lzwDecodeLazy (limit : Int) (s : State) : Flow :=
  match validateParms .lzw s.inst with
  | some e => .raise e s
  | none =>
    if parm s.inst .predictor = 1 then symbolLoop limit (lzwNext Flow.stop) s
    else if checkBufLen s.out.length limit = false then .stop s
    else
      match symbolLoop (-1) (lzwNext Flow.stop) s with
      | .stop s' => tiffRows limit (leftoverEnd (tiffFrame s')) s'
      | .raise e s' => tiffRows limit (Flow.raise e) s'
      | .more s' => .more s'
      | .refuse r s' => .refuse r s'
      | .exceeds => .exceeds
      | .stuck => .stuck

/-! ## The reference encoder (42_lzw.md R155 to R161) -/

/-- The code of a match: the byte itself, or its dictionary code (42_lzw.md R158). -/
def lzwCodeOf (dict : List (Bytes × Nat)) : Bytes → Option Nat
  | [b] => some b.toNat
  | w => dict.lookup w

/-- Whether a match is a single byte or a key of the dictionary (42_lzw.md R157). -/
def lzwKnown (dict : List (Bytes × Nat)) (w : Bytes) : Bool :=
  (dict.lookup w).isSome

/-- The encoder's width increment after a data code (42_lzw.md R158, R159). -/
def encWiden (w : Work) : Work :=
  if w.encWidth < 12 ∧ 2 ^ w.encWidth ≤ 257 + w.encCount + 1 then { w with encWidth := w.encWidth + 1 } else w

/-- `EmitData(w)` (42_lzw.md R158): the state after it and whether it cleared. The width increment stands before the clear
code, which R159 gives the width of its position; at the reference value of LZW_CLEAR_AFTER the width is 12 either way
(log 12). -/
def emitData (w : Bytes) (s : State) : Option (State × Bool) :=
  match lzwCodeOf s.work.dict w with
  | none => none
  | some code =>
    let s1 := bitWrite code s.work.encWidth s
    let s2 := { s1 with work := encWiden { s1.work with encCount := s1.work.encCount + 1 } }
    if s2.work.encCount = s2.cfg.lzwClearAfter then
      let s3 := bitWrite 256 s2.work.encWidth s2
      some ({ s3 with work := { s3.work with encWidth := 9, encCount := 0, dict := [] } }, true)
    else some (s2, false)

/-- Set the current match. -/
def setMatch (w : Bytes) (s : State) : State :=
  { s with work := { s.work with encMatch := w } }

/-- Insert a key: after the k-th data code it takes code `257 + k` (42_lzw.md R158). -/
def insertKey (w : Bytes) (s : State) : State :=
  { s with work := { s.work with dict := (w, 257 + s.work.encCount) :: s.work.dict } }

/-- One input byte (42_lzw.md R155, R157). -/
def lzwEncodeByte (b : Byte) (s : State) : Flow :=
  let w := s.work.encMatch
  if w = [] ∨ lzwKnown s.work.dict (w ++ [b]) = true then .more (setMatch (w ++ [b]) s)
  else
    match emitData w s with
    | none => .stuck
    | some (s', cleared) => .more (setMatch [b] (if cleared then s' else insertKey (w ++ [b]) s'))

/-- The end of the input: the pending match, the EOD code at the resulting width, padding (42_lzw.md R161). -/
def lzwEncodeEnd (s : State) : Flow :=
  if s.work.encMatch = [] then .stop (padBits (bitWrite 257 s.work.encWidth s))
  else
    match emitData s.work.encMatch s with
    | none => .stuck
    | some (s', _) => .stop (padBits (bitWrite 257 s'.work.encWidth s'))

/-- One round of the encoder. -/
def lzwEncodeNext (s : State) : Flow :=
  match inByte s with
  | none => lzwEncodeEnd s
  | some (b, s') => lzwEncodeByte b s'

/-- ENCODE on an LZW instance: the opening clear, then the bytes; no parameter is read (42_lzw.md R155, R156). -/
def lzwEncode (s : State) : Flow :=
  symbolLoop (-1) lzwEncodeNext (bitWrite 256 9 s)

/-! ## Meanings -/

/-- LZW.LIT. -/
def execLzwLit (code : Byte) (s : State) : Host.Outcome State Fault Refusal :=
  settleSymbol (lzwLit code s)

/-- LZW.CLEAR. -/
def execLzwClear (s : State) : Host.Outcome State Fault Refusal :=
  settleSymbol (lzwClear s)

/-- LZW.EOD. -/
def execLzwEod (s : State) : Host.Outcome State Fault Refusal :=
  settleSymbol (lzwEod s)

/-- LZW.REF. -/
def execLzwRef (code : BitVec 12) (s : State) : Host.Outcome State Fault Refusal :=
  settleSymbol (lzwRef code s)

/-- LZW.KWKWK. -/
def execLzwKwkwk (code : BitVec 12) (s : State) : Host.Outcome State Fault Refusal :=
  settleSymbol (lzwKwkwk code s)

/-- LZW.ILLEGAL. -/
def execLzwIllegal (code : BitVec 12) (s : State) : Host.Outcome State Fault Refusal :=
  settleSymbol (lzwIllegal code s)

/-- ENCODE.LZW. -/
def execEncodeLzw (input : Bytes) (s : State) : Host.Outcome State Fault Refusal :=
  dataCommand input none lzwEncode s

/-- DECODE.LZW, which is DECODELEN with `maxLen` -1 (30_encoding.md R88). -/
def execDecodeLzw (input : Bytes) (s : State) : Host.Outcome State Fault Refusal :=
  dataCommand input (some (-1)) lzwDecode s

/-- DECODELEN.LZW. -/
def execDecodelenLzw (maxLen : Int) (input : Bytes) (s : State) : Host.Outcome State Fault Refusal :=
  dataCommand input (some maxLen) (boundedDecode .lzw lzwDecode lzwDecodeLazy) s

end Sys2Proof.Machine
end

