-- ==== Sys2Proof/Machine/Registry.lean ====
section
/-! DEFINITION. The registry and the factory (40_registry_factory.md): NEWFILTER, LIST, SUPPORTS, and the reserved command
bytes. -/

namespace Sys2Proof.Machine

/-- NEWFILTER of a native kind (40_registry_factory.md R103); a value that does not fit PARAM_BITS is refused
(10_state.md R22; log 15). -/
def newNative (kind : Kind) (parms : Option ParmMap) (s : State) : Host.Outcome State Fault Refusal :=
  if fitsCapacity s.cfg.maxName kind.filterName.length = false then .refused .capacityExceeded
  else if parmsFit s.cfg.paramBits parms = false then .next (endRefusal .badCommand s)
  else .next (endOk { startCommand s with inst := constructInst kind parms s.inst })

/-- NEWFILTER of a name that is not native: INST.VALID is cleared and E_UNSUPPORTED_FILTER raised, before any parameter is
looked at (40_registry_factory.md R103, 60_exceptions.md R252). -/
def newUnsupported (name : Bytes) (s : State) : Host.Outcome State Fault Refusal :=
  if fitsCapacity s.cfg.maxName name.length = false then .refused .capacityExceeded
  else .next (endError .unsupportedFilter { s with inst := { s.inst with valid := false } })

/-- NEWFILTER.ASCII85. -/
def execNewfilterAscii85 (parms : Option ParmMap) (s : State) : Host.Outcome State Fault Refusal :=
  newNative .ascii85 parms s

/-- NEWFILTER.ASCIIHEX. -/
def execNewfilterAsciihex (parms : Option ParmMap) (s : State) : Host.Outcome State Fault Refusal :=
  newNative .asciiHex parms s

/-- NEWFILTER.RUNLENGTH. -/
def execNewfilterRunlength (parms : Option ParmMap) (s : State) : Host.Outcome State Fault Refusal :=
  newNative .runLength parms s

/-- NEWFILTER.LZW. -/
def execNewfilterLzw (parms : Option ParmMap) (s : State) : Host.Outcome State Fault Refusal :=
  newNative .lzw parms s

/-- NEWFILTER.FLATE. -/
def execNewfilterFlate (parms : Option ParmMap) (s : State) : Host.Outcome State Fault Refusal :=
  newNative .flate parms s

/-- NEWFILTER.CCITTFAX: an opaque filter. -/
def execNewfilterCcittfax (_parms : Option ParmMap) (s : State) : Host.Outcome State Fault Refusal :=
  newUnsupported nameCcittFax s

/-- NEWFILTER.JBIG2: an opaque filter. -/
def execNewfilterJbig2 (_parms : Option ParmMap) (s : State) : Host.Outcome State Fault Refusal :=
  newUnsupported nameJbig2 s

/-- NEWFILTER.DCT: an opaque filter. -/
def execNewfilterDct (_parms : Option ParmMap) (s : State) : Host.Outcome State Fault Refusal :=
  newUnsupported nameDct s

/-- NEWFILTER.JPX: an opaque filter. -/
def execNewfilterJpx (_parms : Option ParmMap) (s : State) : Host.Outcome State Fault Refusal :=
  newUnsupported nameJpx s

/-- NEWFILTER.UNKNOWN. -/
def execNewfilterUnknown (name : Bytes) (_parms : Option ParmMap) (s : State) : Host.Outcome State Fault Refusal :=
  newUnsupported name s

/-- LIST: the five native names in the order LIST_ORDER (40_registry_factory.md R100, D6). -/
def execList (s : State) : Host.Outcome State Fault Refusal :=
  .next (endQuery (.names s.cfg.listOrder) (startCommand s))

/-- The registry's answer: which filters take parameters (40_registry_factory.md R101). -/
def supportsParms (name : Bytes) : Bool :=
  decide (name = nameCcittFax ∨ name = nameLzw ∨ name = nameFlate)

/-- SUPPORTS (40_registry_factory.md R101). -/
def execSupports (name : Bytes) (s : State) : Host.Outcome State Fault Refusal :=
  if fitsCapacity s.cfg.maxName name.length = false then .refused .capacityExceeded
  else .next (endQuery (.answer (supportsParms name)) (startCommand s))

/-- A reserved command byte (40_registry_factory.md R110). -/
def badCommand (s : State) : Host.Outcome State Fault Refusal :=
  .next (endRefusal .badCommand s)

/-- RESERVED.OP6_7. -/
def execReservedOp6_7 (_op : BitVec 1) (_fid : BitVec 4) (s : State) : Host.Outcome State Fault Refusal :=
  badCommand s

/-- RESERVED.OP8_15. -/
def execReservedOp8_15 (_op : BitVec 3) (_fid : BitVec 4) (s : State) : Host.Outcome State Fault Refusal :=
  badCommand s

/-- RESERVED.FID_NONZERO. -/
def execReservedFidNonzero (_op _fid : BitVec 4) (s : State) : Host.Outcome State Fault Refusal :=
  badCommand s

/-- RESERVED.FID_9_14. -/
def execReservedFid9_14 (_op _fid : BitVec 4) (s : State) : Host.Outcome State Fault Refusal :=
  badCommand s

end Sys2Proof.Machine
end

