-- ==== Sys2Proof/Machine/RunLength.lean ====
section
/-! DEFINITION. The RunLength codec (46_runlength.md): the packets, the decode and the reference encoder. -/

namespace Sys2Proof.Machine

/-! ## Packets: the length byte has been read, `ip` is past it -/

/-- `RL.LIT` (46_runlength.md R227): `L + 1` literal bytes. -/
def rlLit (len : BitVec 7) (s : State) : Flow :=
  match memRead s.input s.ip (len.toNat + 1) with
  | none => .raise .rlTruncated s
  | some lits => .more { emit lits s with ip := s.ip + (len.toNat + 1) }

/-- `RL.EOD` (46_runlength.md R230). -/
def rlEod (s : State) : Flow :=
  .stop s

/-- The count of an `RL.REP` packet, `257 - L` for the length byte `128 + len`, `len` not 0 (46_runlength.md R229). -/
def repCount (len : BitVec 7) : Nat :=
  257 - (128 + len.toNat)

/-- `RL.REP` (46_runlength.md R229). No length byte encodes the field 0, for 0x80 is RL.EOD (30_encoding.md R78), and the
spec gives it no meaning: DESIGN CHOICE, it raises the format's error (log 27). -/
def rlRep (len : BitVec 7) (s : State) : Flow :=
  if len = 0 then .raise .rlTruncated s
  else
    match inByte s with
    | none => .raise .rlTruncated s
    | some (b, s') => .more (emit (List.replicate (repCount len) b) s')

/-- One packet (46_runlength.md R226, R228). -/
def rlNext (s : State) : Flow :=
  match inByte s with
  | none => .raise .rlTruncated s
  | some (b, s') => rlCases b (fun len => rlLit len s') (rlEod s') (fun len => rlRep len s')

/-- The decode rule (46_runlength.md R226), packet by packet under a limit. -/
def rlDecodeLazy (limit : Int) (s : State) : Flow :=
  symbolLoop limit rlNext s

/-- The decode rule (46_runlength.md R226). -/
def rlDecode (s : State) : Flow :=
  rlDecodeLazy (-1) s

/-! ## The reference encoder (46_runlength.md R232) -/

/-- `r`: the length of the run of equal bytes at the front, at most 128. -/
def runLength : Bytes → Nat
  | [] => 0
  | b :: rest => min 128 (1 + (rest.takeWhile (fun c => c == b)).length)

/-- `j - i`: bytes up to the next place where two equal bytes stand together, at most `cap`. -/
def literalLength : Nat → Bytes → Nat
  | 0, _ => 0
  | _ + 1, [] => 0
  | _ + 1, [_] => 1
  | cap + 1, a :: b :: rest => if a = b then 0 else 1 + literalLength cap (b :: rest)

/-- One round of the encoder's outer loop: a packet, or `RL.EOD` at the end of the input. DEDUCED (log 31): the cursor moves
past the bytes of the packet, as 10_state.md R24 and 20_memory.md R63 have it, though 46_runlength.md R232 names `i` alone. -/
def rlEncodeNext (s : State) : Flow :=
  let i := s.work.scanI
  match s.input.drop i with
  | [] => .stop (emit [0x80] s)
  | b :: rest =>
    let r := runLength (b :: rest)
    if 2 ≤ r then
      .more
        { emit [BitVec.ofNat 8 (257 - r), b] s with
          ip := s.ip + r
          work := { s.work with scanR := r, scanI := i + r } }
    else
      let m := literalLength 128 (b :: rest)
      .more
        { emit (BitVec.ofNat 8 (m - 1) :: (b :: rest).take m) s with
          ip := s.ip + m
          work := { s.work with scanR := r, scanJ := i + m, scanI := i + m } }

/-- ENCODE on a RunLength instance (46_runlength.md R232). -/
def rlEncode (s : State) : Flow :=
  symbolLoop (-1) rlEncodeNext s

/-! ## Meanings -/

/-- RL.LIT. -/
def execRlLit (len : BitVec 7) (s : State) : Host.Outcome State Fault Refusal :=
  settleSymbol (rlLit len s)

/-- RL.EOD. -/
def execRlEod (s : State) : Host.Outcome State Fault Refusal :=
  settleSymbol (rlEod s)

/-- RL.REP. -/
def execRlRep (len : BitVec 7) (s : State) : Host.Outcome State Fault Refusal :=
  settleSymbol (rlRep len s)

/-- ENCODE.RUNLENGTH. -/
def execEncodeRunlength (input : Bytes) (s : State) : Host.Outcome State Fault Refusal :=
  dataCommand input none rlEncode s

/-- DECODE.RUNLENGTH, which is DECODELEN with `maxLen` -1 (30_encoding.md R88). -/
def execDecodeRunlength (input : Bytes) (s : State) : Host.Outcome State Fault Refusal :=
  dataCommand input (some (-1)) rlDecode s

/-- DECODELEN.RUNLENGTH. -/
def execDecodelenRunlength (maxLen : Int) (input : Bytes) (s : State) : Host.Outcome State Fault Refusal :=
  dataCommand input (some maxLen) (boundedDecode .runLength rlDecode rlDecodeLazy) s

end Sys2Proof.Machine
end

