-- ==== Sys2Proof/Machine/Dispatch.lean ====
section
/-! DEFINITION. Dispatch: one arm per constructor of Instr, each one direct call of its meaning. -/

namespace Sys2Proof.Machine

/-- The meaning of each instruction (30_encoding.md R70, 40_registry_factory.md R104). -/
def exec (i : Instr) (s : State) : Host.Outcome State Fault Refusal :=
  match i with
  | .newfilterAscii85 parms => Sys2Proof.Machine.execNewfilterAscii85 parms s
  | .newfilterAsciihex parms => Sys2Proof.Machine.execNewfilterAsciihex parms s
  | .newfilterRunlength parms => Sys2Proof.Machine.execNewfilterRunlength parms s
  | .newfilterLzw parms => Sys2Proof.Machine.execNewfilterLzw parms s
  | .newfilterFlate parms => Sys2Proof.Machine.execNewfilterFlate parms s
  | .newfilterCcittfax parms => Sys2Proof.Machine.execNewfilterCcittfax parms s
  | .newfilterJbig2 parms => Sys2Proof.Machine.execNewfilterJbig2 parms s
  | .newfilterDct parms => Sys2Proof.Machine.execNewfilterDct parms s
  | .newfilterJpx parms => Sys2Proof.Machine.execNewfilterJpx parms s
  | .newfilterUnknown name parms => Sys2Proof.Machine.execNewfilterUnknown name parms s
  | .encodeAscii85 input => Sys2Proof.Machine.execEncodeAscii85 input s
  | .encodeAsciihex input => Sys2Proof.Machine.execEncodeAsciihex input s
  | .encodeRunlength input => Sys2Proof.Machine.execEncodeRunlength input s
  | .encodeLzw input => Sys2Proof.Machine.execEncodeLzw input s
  | .encodeFlate input => Sys2Proof.Machine.execEncodeFlate input s
  | .decodeAscii85 input => Sys2Proof.Machine.execDecodeAscii85 input s
  | .decodeAsciihex input => Sys2Proof.Machine.execDecodeAsciihex input s
  | .decodeRunlength input => Sys2Proof.Machine.execDecodeRunlength input s
  | .decodeLzw input => Sys2Proof.Machine.execDecodeLzw input s
  | .decodeFlate input => Sys2Proof.Machine.execDecodeFlate input s
  | .decodelenAscii85 maxLen input => Sys2Proof.Machine.execDecodelenAscii85 maxLen input s
  | .decodelenAsciihex maxLen input => Sys2Proof.Machine.execDecodelenAsciihex maxLen input s
  | .decodelenRunlength maxLen input => Sys2Proof.Machine.execDecodelenRunlength maxLen input s
  | .decodelenLzw maxLen input => Sys2Proof.Machine.execDecodelenLzw maxLen input s
  | .decodelenFlate maxLen input => Sys2Proof.Machine.execDecodelenFlate maxLen input s
  | .list => Sys2Proof.Machine.execList s
  | .supports name => Sys2Proof.Machine.execSupports name s
  | .reservedOp6_7 op fid => Sys2Proof.Machine.execReservedOp6_7 op fid s
  | .reservedOp8_15 op fid => Sys2Proof.Machine.execReservedOp8_15 op fid s
  | .reservedFidNonzero op fid => Sys2Proof.Machine.execReservedFidNonzero op fid s
  | .reservedFid9_14 op fid => Sys2Proof.Machine.execReservedFid9_14 op fid s
  | .rlLit len => Sys2Proof.Machine.execRlLit len s
  | .rlEod => Sys2Proof.Machine.execRlEod s
  | .rlRep len => Sys2Proof.Machine.execRlRep len s
  | .pngNone => Sys2Proof.Machine.execPngNone s
  | .pngSub => Sys2Proof.Machine.execPngSub s
  | .pngUp => Sys2Proof.Machine.execPngUp s
  | .pngAvg => Sys2Proof.Machine.execPngAvg s
  | .pngPaeth => Sys2Proof.Machine.execPngPaeth s
  | .pngIllegal tag => Sys2Proof.Machine.execPngIllegal tag s
  | .tiffHdiff => Sys2Proof.Machine.execTiffHdiff s
  | .predNone => Sys2Proof.Machine.execPredNone s
  | .predTiff => Sys2Proof.Machine.execPredTiff s
  | .predPng10 => Sys2Proof.Machine.execPredPng10 s
  | .predPng11 => Sys2Proof.Machine.execPredPng11 s
  | .predPng12 => Sys2Proof.Machine.execPredPng12 s
  | .predPng13 => Sys2Proof.Machine.execPredPng13 s
  | .predPng14 => Sys2Proof.Machine.execPredPng14 s
  | .predPng15 => Sys2Proof.Machine.execPredPng15 s
  | .predUndefined value => Sys2Proof.Machine.execPredUndefined value s
  | .lzwLit code => Sys2Proof.Machine.execLzwLit code s
  | .lzwClear => Sys2Proof.Machine.execLzwClear s
  | .lzwEod => Sys2Proof.Machine.execLzwEod s
  | .lzwRef code => Sys2Proof.Machine.execLzwRef code s
  | .lzwKwkwk code => Sys2Proof.Machine.execLzwKwkwk code s
  | .lzwIllegal code => Sys2Proof.Machine.execLzwIllegal code s
  | .a85Digit ch => Sys2Proof.Machine.execA85Digit ch s
  | .a85Z => Sys2Proof.Machine.execA85Z s
  | .a85Eod => Sys2Proof.Machine.execA85Eod s
  | .a85Ws ch => Sys2Proof.Machine.execA85Ws ch s
  | .a85Illegal ch => Sys2Proof.Machine.execA85Illegal ch s
  | .hexDigit ch => Sys2Proof.Machine.execHexDigit ch s
  | .hexEod => Sys2Proof.Machine.execHexEod s
  | .hexWs ch => Sys2Proof.Machine.execHexWs ch s
  | .hexIllegal ch => Sys2Proof.Machine.execHexIllegal ch s

end Sys2Proof.Machine
end

