-- ==== Sys2Proof/Machine/Fetch.lean ====
section
/-! DEFINITION. Where the next instruction comes from: the host hands over one command at a time (10_state.md R24). -/

namespace Sys2Proof.Machine

/-- What the host has for the engine next. -/
inductive Fetched where
  /-- Nothing: the engine stays idle (60_exceptions.md R277; log 1). -/
  | idle
  /-- Reset, applied between commands (70_reset_and_hazards.md R280, R290): the state after it. -/
  | reset (s : State)
  /-- A command, read under the kind of the current instance (40_registry_factory.md R104), and the state it runs on. -/
  | command (i : Instr) (s : State)
  deriving DecidableEq, Repr

/-- Reset of the engine (70_reset_and_hazards.md R280): every register as after reset; the configuration, what the host
still has to send and the index of free values are not the engine's registers (log 24). -/
def applyReset (s : State) : State :=
  { State.reset with cfg := s.cfg, pending := s.pending, free := s.free }

/-- Take the next item from the host. -/
def fetch (s : State) : Fetched :=
  match s.pending with
  | [] => .idle
  | .reset :: rest => .reset (applyReset { s with pending := rest })
  | .command c :: rest => .command (decodeCommand s.inst.kind c) { s with pending := rest }

/-- The state in which the host's next command is `c`. -/
def withCommand (c : Command) (s : State) : State :=
  { s with pending := [.command c] }

/-- The state in which the next step runs the opcode-table word `w` (log 4): an 8-bit word is the host's next command
byte; a 16-bit word is an ASCII85 symbol, which an instance of that kind reads as the input of a DECODE. -/
def placeWord (s : State) (nbits w : Nat) : State :=
  if nbits = 8 then withCommand (commandOfByte (BitVec.ofNat 8 w)) s
  else if nbits = 16 then
    withCommand (dataCommandOf 0x20 0 (bytesOfPair w)) { s with inst := { s.inst with valid := true, kind := .ascii85 } }
  else s

end Sys2Proof.Machine
end

