-- ==== Sys2Proof/Machine/Step.lean ====
section
/-! DEFINITION. One step of the engine: one command of the host, run to its end (00_scope.md R6). -/

namespace Sys2Proof.Machine

/-- One step (00_scope.md R6, 20_memory.md R56): fetch and run the host's next command, or apply reset, or stay idle. -/
def step (s : State) : Host.Outcome State Fault Refusal :=
  match fetch s with
  | .idle => .next s
  | .reset s' => .next s'
  | .command i s' => exec i s'

/-- `s` with the instruction of an opcode-table word where step fetches it (log 4). -/
def State.withFetchWord (s : State) (nbits w : Nat) : State :=
  placeWord s nbits w

end Sys2Proof.Machine
end

