-- ==== Sys2Proof/Machine/Observe.lean ====
section
/-! DEFINITION. What the host observes of a command and of a program (70_reset_and_hazards.md R282). -/

namespace Sys2Proof.Machine

/-- The value a command delivers: OUT, RESULT or nothing (70_reset_and_hazards.md R282). -/
inductive Delivered where
  | nothing
  | bytes (l : Bytes)
  | result (r : RegResult)
  deriving DecidableEq, Repr

/-- ENCODE, DECODE and DECODELEN. -/
def isDataCommand : Instr → Bool
  | .encodeAscii85 _ | .encodeAsciihex _ | .encodeRunlength _ | .encodeLzw _ | .encodeFlate _ => true
  | .decodeAscii85 _ | .decodeAsciihex _ | .decodeRunlength _ | .decodeLzw _ | .decodeFlate _ => true
  | .decodelenAscii85 _ _ | .decodelenAsciihex _ _ | .decodelenRunlength _ _ | .decodelenLzw _ _
  | .decodelenFlate _ _ => true
  | _ => false

/-- LIST and SUPPORTS. -/
def isQuery : Instr → Bool
  | .list => true
  | .supports _ => true
  | _ => false

/-- NEWFILTER. -/
def isNewfilter : Instr → Bool
  | .newfilterAscii85 _ | .newfilterAsciihex _ | .newfilterRunlength _ | .newfilterLzw _ | .newfilterFlate _ => true
  | .newfilterCcittfax _ | .newfilterJbig2 _ | .newfilterDct _ | .newfilterJpx _ | .newfilterUnknown _ _ => true
  | _ => false

/-- A reserved command byte. -/
def isReserved : Instr → Bool
  | .reservedOp6_7 _ _ | .reservedOp8_15 _ _ | .reservedFidNonzero _ _ | .reservedFid9_14 _ _ => true
  | _ => false

/-- A command of the host, as opposed to an in-stream symbol (30_encoding.md R70). -/
def isCommand (i : Instr) : Bool :=
  isDataCommand i || isQuery i || isNewfilter i || isReserved i

/-- One entry of the observation, from the state the command left (70_reset_and_hazards.md R282). -/
def observe (i : Instr) (t : State) : Status × Delivered :=
  if t.status = .ok ∧ isDataCommand i = true then (t.status, .bytes t.out)
  else if t.status = .ok ∧ isQuery i = true then (t.status, .result t.result)
  else (t.status, .nothing)

/-- The observation of a program run from a state, one entry per command, whatever the outcome of the one before
(70_reset_and_hazards.md R282). The entry of a command the model itself stops on, for want of capacity (R291, log 14), is
`none`, and so is that of every command after it, which does not run. -/
def runProgram : List Command → State → List (Option (Status × Delivered))
  | [], _ => []
  | c :: rest, s =>
    match exec (decodeCommand s.inst.kind c) s with
    | .next t => some (observe (decodeCommand s.inst.kind c) t) :: runProgram rest t
    | .fault _ => none :: rest.map fun _ => none
    | .refused _ => none :: rest.map fun _ => none

end Sys2Proof.Machine
end

