-- ==== Sys2Proof/Safety.lean ====
section
/-! DEFINITION. The premises a claim may name (70_reset_and_hazards.md R291) and the invariant of the machine. -/

namespace Sys2Proof.Machine

/-! ## Launch premises -/

/-- Premise `ResetState` (70_reset_and_hazards.md R291): the state of R280, every other register unspecified. -/
def ResetState (s : State) : Prop :=
  s.inst.valid = false ∧ s.status = .ok ∧ s.input = [] ∧ s.out = [] ∧ s.ip = 0

/-- Premise `Unbounded` (70_reset_and_hazards.md R291): no finite capacity. -/
abbrev Unbounded (cfg : Config) : Prop :=
  cfg.maxIn = none ∧ cfg.maxOut = none ∧ cfg.maxRow = none ∧ cfg.maxName = none

/-- Premise `DeflateLaw` (70_reset_and_hazards.md R291, 43_flate.md R171). -/
def DeflateLaw (cfg : Config) : Prop :=
  ∀ x : Bytes, inflate cfg (deflate cfg x) = some x

/-- Premise `NoRefusal` on the observation of a program (70_reset_and_hazards.md R291): every command ran, none stopped on
for want of capacity, and none was refused (60_exceptions.md R266). -/
def NoRefusal (obs : List (Option (Status × Delivered))) : Prop :=
  ∀ o ∈ obs, ∃ st d, o = some (st, d) ∧ ∀ r, st ≠ .refusal r

/-- A move of the host (70_reset_and_hazards.md R290): a command or a reset between commands, or one of those that R290
excludes and the model gives no effect. -/
inductive HostMove where
  | between (e : HostEvent)
  | commandDuringCommand (c : Command)
  | changeInputDuringCommand (input : Bytes)
  | resetDuringCommand
  | readOutAfterError
  | readInst
  | readWork
  deriving DecidableEq, Repr

/-- Premise `HostQuiet` (70_reset_and_hazards.md R291): the host makes none of the excluded moves of R290. -/
def HostQuiet (moves : List HostMove) : Prop :=
  ∀ m ∈ moves, ∃ e, m = .between e

/-- What a host's moves hand the engine, in their order (`State.pending`): all of them, for a quiet host. -/
def hostEvents (moves : List HostMove) : List HostEvent :=
  moves.filterMap fun m =>
    match m with
    | .between e => some e
    | .commandDuringCommand _ | .changeInputDuringCommand _ | .resetDuringCommand => none
    | .readOutAfterError | .readInst | .readWork => none

/-! ## Invariants -/

/-- What the spec says of the OPEN parameters: PARAM_BITS is at least 32 (00_scope.md R7), LZW_CLEAR_AFTER is 1 to 3837
(92_eei_decisions.md D22), LIST_ORDER orders the five native names (40_registry_factory.md R100). -/
def ConfigLegal (cfg : Config) : Prop :=
  (∀ b, cfg.paramBits = some b → 32 ≤ b) ∧ 1 ≤ cfg.lzwClearAfter ∧ cfg.lzwClearAfter ≤ 3837 ∧
    cfg.listOrder.Perm [nameAscii85, nameAsciiHex, nameRunLength, nameLzw, nameFlate]

/-- An instance without a map has no key present, and every present value fits PARAM_BITS (10_state.md R21, R22). -/
def InstOk (cfg : Config) (i : Inst) : Prop :=
  ∀ k, (parmReg i k).present = true → i.hasMap = true ∧ fitsParamBits cfg.paramBits (parmReg i k).value = true

/-- The machine's invariant between commands: the instance is as NEWFILTER leaves it, and after a command that did not end
`ok` OUT is empty (10_state.md R28, 60_exceptions.md R269). -/
def Inv (s : State) : Prop :=
  InstOk s.cfg s.inst ∧ (s.status ≠ .ok → s.out = [])

/-- The LZW decoder's working registers within a command (10_state.md R32): width, index of the next entry, the entries
defined exactly for `258 <= i < next`, every one at least two bytes long, and a non-empty previous string. -/
def LzwOk (w : Work) : Prop :=
  9 ≤ w.width ∧ w.width ≤ 12 ∧ w.next = 258 + w.table.length ∧ w.next ≤ 4096 ∧
    (∀ e ∈ w.table, 2 ≤ e.length) ∧ (∀ p, w.prev = some p → p ≠ [])

/-- The width that the early-change schedule gives for an index of the next entry (42_lzw.md R151). -/
def scheduledWidth (next : Nat) : Nat :=
  if next < 511 then 9 else if next < 1023 then 10 else if next < 2047 then 11 else 12

/-- The ASCII85 decoder's group within a command: 0 to 4 digits (10_state.md R34), each in 0..84 (30_encoding.md R80). -/
def A85Ok (w : Work) : Prop :=
  w.group.length ≤ 4 ∧ ∀ d ∈ w.group, d ≤ 84

/-! ## How a command ends -/

/-- `t` is `s` after a command or symbol ended `ok`: STATUS is OK, RESULT is unspecified (10_state.md R26), nothing else
differs; the index of free values is the model's own. -/
def EndsOkAs (s t : State) : Prop :=
  t = { s with status := .ok, result := t.result, free := t.free }

/-- `t` is `s` after an error (60_exceptions.md R269): STATUS holds it, OUT is empty; WORK, ip, MAXLEN and RESULT are
unspecified, nothing else differs; the index of free values is the model's own. -/
def FailsAs (st : Status) (s t : State) : Prop :=
  t = { s with
    status := st, out := [], work := t.work, ip := t.ip, maxLen := t.maxLen, result := t.result, free := t.free }

/-- `t` is `s` after a refusal (60_exceptions.md R266, 40_registry_factory.md R110): STATUS holds it, OUT is empty and
nothing else differs; RESULT is unspecified (10_state.md R26), the index of free values the model's own. -/
def RefusedAs (r : EngineRefusal) (s t : State) : Prop :=
  t = { s with status := .refusal r, out := [], result := t.result, free := t.free }

/-- `t` follows `s` after a data command that ended `ok` with the bytes `y`: INST, the configuration and what the host
still sends are kept (70_reset_and_hazards.md R284), IN is the command's input. -/
def Delivers (y input : Bytes) (s t : State) : Prop :=
  t.status = .ok ∧ t.out = y ∧ t.input = input ∧ t.inst = s.inst ∧ t.cfg = s.cfg ∧ t.pending = s.pending

/-- The same for a bounded decode of a stream whose full content is `y`: a prefix of it, at least `min n (len y)` bytes
long (47_bounded_decode.md R243). -/
def DeliversSome (n : Nat) (y input : Bytes) (s t : State) : Prop :=
  t.status = .ok ∧ t.out <+: y ∧ min n y.length ≤ t.out.length ∧ t.input = input ∧ t.inst = s.inst ∧ t.cfg = s.cfg ∧
    t.pending = s.pending

end Sys2Proof.Machine
end

