-- ==== Sys2Proof/Streams.lean ====
section
/-! DEFINITION. The encoded forms as the tables of the spec write them and the content they stand for, defined apart from
the codecs: what the claims compare the codecs with. -/

namespace Sys2Proof.Streams

open Sys2Proof.Machine

/-! ## Commands -/

/-- NEWFILTER of a native kind (30_encoding.md R72). -/
def newfilterOf (k : Kind) (parms : Option ParmMap) : Instr :=
  match k with
  | .ascii85 => .newfilterAscii85 parms
  | .asciiHex => .newfilterAsciihex parms
  | .runLength => .newfilterRunlength parms
  | .lzw => .newfilterLzw parms
  | .flate => .newfilterFlate parms

/-- An engine that a data command runs on: an instance exists and no capacity is finite (40_registry_factory.md R104,
70_reset_and_hazards.md R291). -/
def Ready (s : State) : Prop :=
  s.inst.valid = true ∧ Unbounded s.cfg

/-- The geometry passes the checks 3 to 5 of 40_registry_factory.md R109. -/
def GeometryOk (i : Inst) : Prop :=
  1 ≤ parm i .colors ∧ parm i .bitsPerComponent ∈ ([1, 2, 4, 8, 16] : List Int) ∧ 1 ≤ parm i .columns

/-- The checks of 40_registry_factory.md R109 in their order, each with the error it raises. -/
def checks (kind : Kind) (i : Inst) : List (Bool × EngineError) :=
  [(decide (parm i .predictor ∉ ([1, 2, 10, 11, 12, 13, 14, 15] : List Int)), .undefinedPredictor),
    (decide (kind = .lzw ∧ parm i .predictor ∈ ([10, 11, 12, 13, 14, 15] : List Int)), .unsupportedPredictor),
    (decide (parm i .colors ≤ 0), .colors),
    (decide (parm i .bitsPerComponent ∉ ([1, 2, 4, 8, 16] : List Int)), .bpc),
    (decide (parm i .columns < 1), .columns)]

/-- The result of a command that ended `ok` or in an error (00_scope.md R13). -/
def resultOf (t : State) : Option DecodeResult :=
  match t.status with
  | .ok => some (.ok t.out)
  | .error e => some (.error e)
  | .refusal _ => none

/-- The lazy form of a kind's decode rule, which leaves the trace of 47_bounded_decode.md R247. -/
def lazyOf (k : Kind) (limit : Int) (s : State) : Flow :=
  match k with
  | .ascii85 => a85DecodeLazy limit s
  | .asciiHex => hexDecodeLazy limit s
  | .runLength => rlDecodeLazy limit s
  | .lzw => lzwDecodeLazy limit s
  | .flate => flateDecodeLazy limit s

/-- The trace of a kind's decode of an input: the bytes produced and how it ends (47_bounded_decode.md R247). -/
def traceOf (k : Kind) (input : Bytes) (s : State) : Option Trace :=
  (lazyOf k (-1) (startData input (some (-1)) s)).trace

/-! ## RunLength (30_encoding.md R78) -/

/-- A packet: literal bytes, or a repeated byte. -/
inductive RlPacket where
  | lit (l : Bytes)
  | rep (n : Nat) (b : Byte)
  deriving DecidableEq, Repr

/-- 1 to 128 literal bytes, 2 to 128 copies. -/
def RlPacket.wf : RlPacket → Bool
  | .lit l => decide (1 ≤ l.length ∧ l.length ≤ 128)
  | .rep n _ => decide (2 ≤ n ∧ n ≤ 128)

/-- The bytes of a packet: the length byte `n - 1` or `257 - n`, and what follows it. -/
def RlPacket.code : RlPacket → Bytes
  | .lit l => BitVec.ofNat 8 (l.length - 1) :: l
  | .rep n b => [BitVec.ofNat 8 (257 - n), b]

/-- The bytes a packet stands for. -/
def RlPacket.content : RlPacket → Bytes
  | .lit l => l
  | .rep n b => List.replicate n b

/-! ## ASCIIHex (30_encoding.md R81) -/

/-- The bytes of a digit sequence, high nibble first, a lone last digit padded with 0 (45_asciihex.md R213, R214). -/
def hexContent : List (BitVec 4) → Bytes
  | h :: l :: rest => (h ++ l) :: hexContent rest
  | [h] => [h ++ 0#4]
  | [] => []

/-- The bytes of the whole pairs of a digit sequence: what is emitted before the end of a broken stream (45_asciihex.md R213,
47_bounded_decode.md R247). -/
def hexPairs : List (BitVec 4) → Bytes
  | h :: l :: rest => (h ++ l) :: hexPairs rest
  | [_] => []
  | [] => []

/-- The lower-case character of a nibble (45_asciihex.md R219). -/
def hexLower (n : Nat) : Byte :=
  BitVec.ofNat 8 (if n < 10 then 48 + n else 87 + n)

/-- The encoded form of a byte sequence without the terminator (45_asciihex.md R219). -/
def hexText (d : Bytes) : Bytes :=
  d.flatMap fun b => [hexLower (b.toNat / 16), hexLower (b.toNat % 16)]

/-! ## ASCII85 (30_encoding.md R79, R80) -/

/-- The number of five digits (30_encoding.md R80). -/
def a85Number (d0 d1 d2 d3 d4 : Nat) : Nat :=
  d0 * 52200625 + d1 * 614125 + d2 * 7225 + d3 * 85 + d4

/-- The value of a digit character; 84 in the place of a digit that is not there (44_ascii85.md R196). -/
def a85DigitOf (ch : Option Byte) : Nat :=
  match ch with
  | none => 84
  | some c => c.toNat - 33

/-- The four bytes of a number (30_encoding.md R80). -/
def a85Bytes (v : Nat) : Bytes :=
  [BitVec.ofNat 8 (v / 2 ^ 24), BitVec.ofNat 8 (v / 2 ^ 16), BitVec.ofNat 8 (v / 2 ^ 8), BitVec.ofNat 8 v]

/-- What a group of at most five characters stands for: one byte fewer than characters; nothing where a character is no
digit, the group has one character or the number exceeds `2^32 - 1` (44_ascii85.md R195, R196, R198). -/
def a85Group (g : Bytes) : Option Bytes :=
  let v := a85Number (a85DigitOf g[0]?) (a85DigitOf g[1]?) (a85DigitOf g[2]?) (a85DigitOf g[3]?) (a85DigitOf g[4]?)
  if (g.all fun c => decide (0x21 ≤ c ∧ c ≤ 0x75)) = true ∧ 2 ≤ g.length ∧ v < 2 ^ 32 then
    some ((a85Bytes v).take (g.length - 1))
  else none

/-- What the characters before the terminator, white space removed, stand for; nothing where the stream is malformed
(44_ascii85.md R192 to R198). -/
def a85Content : Bytes → Option Bytes
  | [] => some []
  | c :: rest =>
    if c = 0x7A then (a85Content rest).map ([0, 0, 0, 0] ++ ·)
    else
      match rest with
      | c1 :: c2 :: c3 :: c4 :: rest' =>
        match a85Group [c, c1, c2, c3, c4] with
        | none => none
        | some y => (a85Content rest').map (y ++ ·)
      | tail => a85Group (c :: tail)

/-- What the groups before the first malformed one stand for (44_ascii85.md R192, 47_bounded_decode.md R247). -/
def a85Opening : Bytes → Bytes
  | [] => []
  | c :: rest =>
    if c = 0x7A then [0, 0, 0, 0] ++ a85Opening rest
    else
      match rest with
      | c1 :: c2 :: c3 :: c4 :: rest' =>
        match a85Group [c, c1, c2, c3, c4] with
        | none => []
        | some y => y ++ a85Opening rest'
      | tail => (a85Group (c :: tail)).getD []

/-- The first `n` characters of a number (44_ascii85.md R191, R200). -/
def a85Characters (v n : Nat) : Bytes :=
  ([v / 52200625, v / 614125 % 85, v / 7225 % 85, v / 85 % 85, v % 85].take n).map fun d => BitVec.ofNat 8 (33 + d)

/-- The big-endian number of four bytes (44_ascii85.md R191). -/
def a85WordOf (b0 b1 b2 b3 : Byte) : Nat :=
  b0.toNat * 2 ^ 24 + b1.toNat * 2 ^ 16 + b2.toNat * 2 ^ 8 + b3.toNat

/-- The encoded form of a byte sequence without the terminator (44_ascii85.md R200, R201). -/
def a85Text : Bytes → Bytes
  | b0 :: b1 :: b2 :: b3 :: rest =>
    (if a85WordOf b0 b1 b2 b3 = 0 then [0x7A] else a85Characters (a85WordOf b0 b1 b2 b3) 5) ++ a85Text rest
  | [b0, b1, b2] => a85Characters (a85WordOf b0 b1 b2 0) 4
  | [b0, b1] => a85Characters (a85WordOf b0 b1 0 0) 3
  | [b0] => a85Characters (a85WordOf b0 0 0 0) 2
  | [] => []

/-! ## LZW (30_encoding.md R82, R83) -/

/-- The string of a data code for a dictionary listed from entry 258 on: a literal, an entry, or the entry about to be
defined; nothing for an illegal code or with the table full (42_lzw.md R146 to R149, R152). -/
def lzwString (table : List Bytes) (prev : Option Bytes) (c : Nat) : Option Bytes :=
  if table.length = 3838 then none
  else if c < 256 then some [BitVec.ofNat 8 c]
  else if c < 258 + table.length then table[c - 258]?
  else if c = 258 + table.length then prev.map fun p => p ++ p.take 1
  else none

/-- The dictionary after a data code (42_lzw.md R148). -/
def lzwTable (table : List Bytes) (prev : Option Bytes) (str : Bytes) : List Bytes :=
  match prev with
  | none => table
  | some p => table ++ [p ++ str.take 1]

/-- What a sequence of codes before the end-of-data code stands for, from a dictionary and a previous string; nothing where
a code is illegal (42_lzw.md R142). -/
def lzwContent (table : List Bytes) (prev : Option Bytes) : List Nat → Option Bytes
  | [] => some []
  | c :: rest =>
    if c = 256 then lzwContent [] none rest
    else
      match lzwString table prev c with
      | none => none
      | some str => (lzwContent (lzwTable table prev str) (some str) rest).map (str ++ ·)

/-- What the codes before the first illegal one stand for (42_lzw.md R142, 47_bounded_decode.md R247). -/
def lzwOpening (table : List Bytes) (prev : Option Bytes) : List Nat → Bytes
  | [] => []
  | c :: rest =>
    if c = 256 then lzwOpening [] none rest
    else
      match lzwString table prev c with
      | none => []
      | some str => str ++ lzwOpening (lzwTable table prev str) (some str) rest

/-- `W(n)`, the width of the n-th code since the last clear (30_encoding.md R83). -/
def codeWidth (n : Nat) : Nat :=
  if n ≤ 254 then 9 else if n ≤ 766 then 10 else if n ≤ 1790 then 11 else 12

/-- The bits of a number, most significant first. -/
def numberBits (v w : Nat) : List Bool :=
  (List.range w).map fun j => v.testBit (w - 1 - j)

/-- The bits of a code sequence whose first code is the n-th since the last clear (30_encoding.md R83). -/
def lzwBits (n : Nat) : List Nat → List Bool
  | [] => []
  | c :: rest => numberBits c (codeWidth n) ++ lzwBits (if c = 256 then 1 else n + 1) rest

/-- Every code has the width its place gives it. -/
def lzwFits (n : Nat) : List Nat → Bool
  | [] => true
  | c :: rest => decide (c < 2 ^ codeWidth n) && lzwFits (if c = 256 then 1 else n + 1) rest

/-- The bits of a byte sequence, bit 7 of byte 0 first (20_memory.md R53). -/
def bitsOf (l : Bytes) : List Bool :=
  l.flatMap fun b => (List.range 8).map fun j => b.getLsbD (7 - j)

/-! ## Predictors (41_predictor.md) -/

/-- The term a row filter adds to a raw byte, from the left, the upper and the upper left byte (41_predictor.md R125 to
R130), by tag. -/
def pngTerm (tag : Nat) (a b c : Byte) : Byte :=
  match tag with
  | 0 => 0
  | 1 => a
  | 2 => b
  | 3 => BitVec.ofNat 8 ((a.toNat + b.toNat) / 2)
  | _ => paeth a b c

/-- `row` is what the filter `tag` makes of the data bytes `raw` of a chunk, byte by byte (41_predictor.md R124 to R129). -/
def PngRowOf (tag bpp : Nat) (prev : Option Bytes) (raw row : Bytes) : Prop :=
  row.length = raw.length ∧
    ∀ x, x < raw.length →
      row.getD x 0 =
        raw.getD x 0 +
          pngTerm tag (if bpp ≤ x then row.getD (x - bpp) 0 else 0) ((prev.getD []).getD x 0)
            (if bpp ≤ x then (prev.getD []).getD (x - bpp) 0 else 0)

/-- `row` is what horizontal differencing with the stride `colors` makes of `raw` (41_predictor.md R122). -/
def TiffRowOf (colors : Nat) (raw row : Bytes) : Prop :=
  row.length = raw.length ∧
    ∀ x, x < raw.length →
      row.getD x 0 = if colors ≤ x then raw.getD x 0 + row.getD (x - colors) 0 else raw.getD x 0

/-- `y` is the PNG reconstruction of a buffer of whole chunks, each a tag and `rb` data bytes (41_predictor.md R131). -/
def PngBufferOf (rb bpp : Nat) (raw y : Bytes) : Prop :=
  y.length * (1 + rb) = raw.length * rb ∧
    ∀ r, r < raw.length / (1 + rb) →
      PngRowOf (raw.getD (r * (1 + rb)) 0).toNat bpp
        (if r = 0 then none else some ((y.drop ((r - 1) * rb)).take rb))
        ((raw.drop (r * (1 + rb) + 1)).take rb) ((y.drop (r * rb)).take rb)

/-- `y` is the TIFF reconstruction of a buffer of whole rows of `rb` bytes (41_predictor.md R123). -/
def TiffBufferOf (rb colors : Nat) (raw y : Bytes) : Prop :=
  y.length = raw.length ∧
    ∀ r, r < raw.length / rb → TiffRowOf colors ((raw.drop (r * rb)).take rb) ((y.drop (r * rb)).take rb)

/-- `z` is `Rows2(y)`: the TIFF reconstruction of the whole rows at the front of a buffer (47_bounded_decode.md R247). -/
def WholeRowsOf (rb colors : Nat) (y z : Bytes) : Prop :=
  TiffBufferOf rb colors (y.take (y.length / rb * rb)) z

end Sys2Proof.Streams
end

