-- ==== Sys2Proof/Certificates/Slice0/Obligations.lean ====
section
/-! DEFINITION. The statements for the provers. Each docstring says which rule of spec/ it formalises; the letters in a
docstring are those of the conjuncts in their order. -/

section

open Sys2Proof Sys2Proof.Machine Sys2Proof.Streams

/-! ## Encoding and dispatch -/

/-- Decoding inverts encoding: for every well-formed instruction and every context that reads it, `decode` of its encoding
is the instruction (30_encoding.md R71 to R85, 42_lzw.md R142). -/
def Obligations.DecodeInvertsEncode : Prop :=
  ∀ (i : Instr) (ctx : Context), i.wf = true → i.fits ctx = true → decode ctx (encode i) = .ok i

/-- Whatever decodes is an instruction that its context reads, and a well-formed one if a parameter map holds each key at
most once and an LZW code value has at most 12 bits (30_encoding.md R72 to R85). -/
def Obligations.DecodedInstructionsFit : Prop :=
  ∀ (ctx : Context) (e : Encoded) (i : Instr), decode ctx e = .ok i →
    (∀ c, e = .command c → parmsWf c.parms = true) → (∀ c, e = .code c → c < 4096) →
      i.fits ctx = true ∧ i.wf = true

/-- Words written out from the tables of 30_encoding.md R71 to R82 decode to the instructions they stand for: the command
bytes 0x03, 0x20, 0x40 and 0x97, the length bytes 0x02, 0x80 and 0x81, the tag 0x04, the Predictor value 12, the code
values 65, 256, 257 and 258, and the characters `!`, `~>`, `z`, `a`, `>`. -/
def Obligations.SampleWordsDecode : Prop :=
  decode (.command .flate) (.command ⟨0x03, nameLzw, none, 0, []⟩) = .ok (.newfilterLzw none) ∧
  decode (.command .flate) (.command ⟨0x20, [], none, 0, [7]⟩) = .ok (.decodeFlate [7]) ∧
  decode (.command .lzw) (.command ⟨0x40, [], none, 0, []⟩) = .ok .list ∧
  decode (.command .lzw) (.command ⟨0x97, [], none, 0, []⟩) = .ok (.reservedOp8_15 1 7) ∧
  decode .runLength (.bytes [0x02, 9, 9, 9]) = .ok (.rlLit 2) ∧
  decode .runLength (.bytes [0x80]) = .ok .rlEod ∧
  decode .runLength (.bytes [0x81, 9]) = .ok (.rlRep 1) ∧
  decode .png (.bytes [0x04]) = .ok .pngPaeth ∧
  decode .predictor (.value 12) = .ok .predPng12 ∧
  decode (.lzw 300 true) (.code 65) = .ok (.lzwLit 65) ∧
  decode (.lzw 300 true) (.code 256) = .ok .lzwClear ∧
  decode (.lzw 300 true) (.code 257) = .ok .lzwEod ∧
  decode (.lzw 300 true) (.code 258) = .ok (.lzwRef 258) ∧
  decode (.lzw 258 true) (.code 258) = .ok (.lzwKwkwk 258) ∧
  decode (.lzw 258 false) (.code 258) = .ok (.lzwIllegal 258) ∧
  decode .ascii85 (.bytes [0x21]) = .ok (.a85Digit 0x21) ∧
  decode .ascii85 (.bytes [0x7E, 0x3E]) = .ok .a85Eod ∧
  decode .ascii85 (.bytes [0x7A, 0x3E]) = .ok .a85Z ∧
  decode .asciiHex (.bytes [0x61]) = .ok (.hexDigit 0x61) ∧
  decode .asciiHex (.bytes [0x3E]) = .ok .hexEod

/-- The characters of the text formats by class, for every byte (30_encoding.md R79, R81): (a) the two bytes `~>` are the
ASCII85 terminator; (b to e) an ASCII85 byte that does not open it is white space, `z`, a digit or illegal; (f to k) an
ASCIIHex byte is white space, the terminator, a digit of the value the table gives, or illegal. (The value of an ASCII85
digit stands in `Ascii85Symbols`.) -/
def Obligations.TextCharacterClasses : Prop :=
  ∀ (ch : Byte) (rest : Bytes),
    (ch = 0x7E ∧ rest.head? = some 0x3E → decode .ascii85 (.bytes (ch :: rest)) = .ok .a85Eod) ∧
    (ch ∈ ([0x00, 0x09, 0x0A, 0x0C, 0x0D, 0x20] : List Byte) → decode .ascii85 (.bytes (ch :: rest)) = .ok (.a85Ws ch)) ∧
    (ch = 0x7A → decode .ascii85 (.bytes (ch :: rest)) = .ok .a85Z) ∧
    (0x21 ≤ ch ∧ ch ≤ 0x75 → decode .ascii85 (.bytes (ch :: rest)) = .ok (.a85Digit ch)) ∧
    (ch ∉ ([0x00, 0x09, 0x0A, 0x0C, 0x0D, 0x20, 0x7A] : List Byte) ∧ ¬ (0x21 ≤ ch ∧ ch ≤ 0x75) ∧
        ¬ (ch = 0x7E ∧ rest.head? = some 0x3E) →
      decode .ascii85 (.bytes (ch :: rest)) = .ok (.a85Illegal ch)) ∧
    (ch ∈ ([0x00, 0x09, 0x0A, 0x0C, 0x0D, 0x20] : List Byte) → decode .asciiHex (.bytes (ch :: rest)) = .ok (.hexWs ch)) ∧
    (ch = 0x3E → decode .asciiHex (.bytes (ch :: rest)) = .ok .hexEod) ∧
    (0x30 ≤ ch ∧ ch ≤ 0x39 →
      decode .asciiHex (.bytes (ch :: rest)) = .ok (.hexDigit ch) ∧ hexVal ch = some (BitVec.ofNat 4 (ch.toNat - 0x30))) ∧
    (0x41 ≤ ch ∧ ch ≤ 0x46 →
      decode .asciiHex (.bytes (ch :: rest)) = .ok (.hexDigit ch) ∧
        hexVal ch = some (BitVec.ofNat 4 (ch.toNat - 0x41 + 10))) ∧
    (0x61 ≤ ch ∧ ch ≤ 0x66 →
      decode .asciiHex (.bytes (ch :: rest)) = .ok (.hexDigit ch) ∧
        hexVal ch = some (BitVec.ofNat 4 (ch.toNat - 0x61 + 10))) ∧
    (ch ∉ ([0x00, 0x09, 0x0A, 0x0C, 0x0D, 0x20, 0x3E] : List Byte) ∧ ¬ (0x30 ≤ ch ∧ ch ≤ 0x39) ∧
        ¬ (0x41 ≤ ch ∧ ch ≤ 0x46) ∧ ¬ (0x61 ≤ ch ∧ ch ≤ 0x66) →
      decode .asciiHex (.bytes (ch :: rest)) = .ok (.hexIllegal ch) ∧ hexVal ch = none)

/-- A step runs the command the host sends next (00_scope.md R6, 10_state.md R24): (a) with a command at the front of what
the host has, `step` is `exec` of the instruction it decodes to under INST.KIND, on the state without that item; (b) with
a reset at the front, `step` leaves the model's reset state, whose registers that 70_reset_and_hazards.md R280 leaves
unspecified (KIND, the parameters, RESULT, MAXLEN, WORK) hold the values of log 10, the model's choice, and keeps the
model's own fields (log 24, log 26); (c) with nothing there the engine stays idle (log 1, the model's choice). -/
def Obligations.StepRunsTheDecodedCommand : Prop :=
  (∀ (s : State) (c : Command) (rest : List HostEvent) (i : Instr), s.pending = .command c :: rest →
    decode (.command s.inst.kind) (.command c) = .ok i → step s = exec i { s with pending := rest }) ∧
  (∀ (s : State) (rest : List HostEvent), s.pending = .reset :: rest →
    step s = .next { State.reset with cfg := s.cfg, pending := rest, free := s.free }) ∧
  (∀ s : State, s.pending = [] → step s = .next s)

/-- One round of a codec's loop runs the symbol that its bytes decode to, from the state behind those bytes: (a) RunLength,
(b) ASCIIHex, (c) ASCII85 before the terminator and (d) at it, (e) LZW, (f) a PNG chunk, (g) the resolved Predictor value
(40_registry_factory.md R112, 46_runlength.md R226, 45_asciihex.md R211, 44_ascii85.md R192, 42_lzw.md R142,
41_predictor.md R120, R131). That the cursor moves past the two bytes of the terminator in (d) is the model's reading of
30_encoding.md R86 and 10_state.md R24, which R192 does not say (log 17); where the chunk of (f) lies for a geometry that
does not pass validation is its choice (log 32). -/
def Obligations.CodecRoundsRunTheDecodedSymbol : Prop :=
  (∀ (s : State) (b : Byte), s.input[s.ip]? = some b →
    settleSymbol (rlNext s) = exec (decodeRl b) { s with ip := s.ip + 1 }) ∧
  (∀ (s : State) (b : Byte), s.input[s.ip]? = some b →
    settleSymbol (hexNext s) = exec (decodeHex b) { s with ip := s.ip + 1 }) ∧
  (∀ (s : State) (b : Byte) (i : Instr), s.ip ≠ s.work.eodpos → s.input[s.ip]? = some b →
    decode .ascii85 (.bytes [b]) = .ok i → settleSymbol (a85Next s) = exec i { s with ip := s.ip + 1 }) ∧
  (∀ s : State, s.ip = s.work.eodpos → settleSymbol (a85Next s) = exec .a85Eod { s with ip := s.ip + 2 }) ∧
  (∀ (s : State) (c : Nat), bitRead s.input s.work.bp s.work.width = some c →
    settleSymbol (lzwNext lzwEod s) =
      exec (decodeLzw s.work.next s.work.prev.isSome c) { s with work := { s.work with bp := s.work.bp + s.work.width } }) ∧
  (∀ (s : State) (tag : Byte), s.work.raw[s.work.rowIndex * (1 + rowBytes s.inst)]? = some tag →
    settleSymbol (pngNext s) = exec (decodePng tag) s) ∧
  (∀ s : State, settleSymbol (applyPredictor s) = exec (decodePredictor (parm s.inst .predictor)) s)

/-- A reserved command byte is refused (30_encoding.md R85, 40_registry_factory.md R110, 60_exceptions.md R266): (a) the
bytes with OP 6 to 15, with a FID other than 0 under OP 1 to 4, and with FID 9 to 14 under OP 0 and 5, decode to a reserved
row and no other bytes do; (b to e) each reserved row ends with the refusal E_BAD_COMMAND: STATUS changes, OUT is empty,
RESULT is unspecified, nothing else changes (log 8 says which rules this reading follows). -/
def Obligations.ReservedBytesAreRefused : Prop :=
  (∀ (k : Kind) (c : Command),
    isReserved (decodeCommand k c) = true ↔
      6 ≤ c.cmd.toNat / 16 ∨ (1 ≤ c.cmd.toNat / 16 ∧ c.cmd.toNat / 16 ≤ 4 ∧ c.cmd.toNat % 16 ≠ 0) ∨
        ((c.cmd.toNat / 16 = 0 ∨ c.cmd.toNat / 16 = 5) ∧ 9 ≤ c.cmd.toNat % 16 ∧ c.cmd.toNat % 16 ≤ 14)) ∧
  (∀ (op : BitVec 1) (fid : BitVec 4) (s : State),
    ∃ t, exec (.reservedOp6_7 op fid) s = .next t ∧ RefusedAs .badCommand s t) ∧
  (∀ (op : BitVec 3) (fid : BitVec 4) (s : State),
    ∃ t, exec (.reservedOp8_15 op fid) s = .next t ∧ RefusedAs .badCommand s t) ∧
  (∀ (op fid : BitVec 4) (s : State),
    ∃ t, exec (.reservedFidNonzero op fid) s = .next t ∧ RefusedAs .badCommand s t) ∧
  (∀ (op fid : BitVec 4) (s : State),
    ∃ t, exec (.reservedFid9_14 op fid) s = .next t ∧ RefusedAs .badCommand s t)

/-! ## Registry, factory, parameters -/

/-- LIST delivers the native names in the order of LIST_ORDER (92_eei_decisions.md D6), at its reference value the five names
in the order of 40_registry_factory.md R100, needs no instance and leaves INST unchanged. Starting it empties OUT and
initialises WORK (70_reset_and_hazards.md R287; log 11, log 30); IN, ip, MAXLEN and the configuration are kept. -/
def Obligations.ListDeliversTheNativeNames : Prop :=
  ∀ s : State, ∃ t, exec .list s = .next t ∧ t.status = .ok ∧ t.result = .names s.cfg.listOrder ∧
    (s.cfg.listOrder = Config.reference.listOrder →
      t.result = .names [nameAscii85, nameAsciiHex, nameRunLength, nameLzw, nameFlate]) ∧
    t.out = [] ∧ t.work = Work.initial ∧ t.inst = s.inst ∧ t.cfg = s.cfg ∧ t.pending = s.pending ∧ t.input = s.input ∧
    t.ip = s.ip ∧ t.maxLen = s.maxLen

/-- SUPPORTS answers true exactly for `CCITTFaxDecode`, `LZWDecode` and `FlateDecode`, in FID terms 3, 4 and 5, for every
name, known or not, and leaves INST unchanged (40_registry_factory.md R101). Starting it empties OUT and initialises WORK
(70_reset_and_hazards.md R287; log 11, log 30). -/
def Obligations.SupportsAnswersForEveryName : Prop :=
  ∀ (name : Bytes) (s : State), Unbounded s.cfg →
    ∃ t b, exec (.supports name) s = .next t ∧ t.status = .ok ∧ t.result = .answer b ∧
      (b = true ↔ name = nameCcittFax ∨ name = nameLzw ∨ name = nameFlate) ∧
      (b = true ↔ classify name = 3 ∨ classify name = 4 ∨ classify name = 5) ∧
      t.out = [] ∧ t.work = Work.initial ∧ t.inst = s.inst ∧ t.cfg = s.cfg ∧ t.pending = s.pending ∧ t.input = s.input ∧
      t.ip = s.ip ∧ t.maxLen = s.maxLen

/-- Names are classified byte for byte over their whole length (40_registry_factory.md R102): (a) FID k below 9 exactly for
the k-th of the nine strings; (b) 15 for every other string. -/
def Obligations.ClassifyComparesWholeNames : Prop :=
  (∀ (name : Bytes) (k : Nat), k < 9 → (classify name = k ↔ filterNames[k]? = some name)) ∧
  (∀ name : Bytes, name ∉ filterNames → classify name = 15)

/-- NEWFILTER of each of the five native names constructs the instance (40_registry_factory.md R103): VALID, KIND, HASMAP,
the PRESENT bit of every key and the VALUE of every key present, without looking at the values; a key that is absent keeps
its VALUE register; starting it empties OUT and initialises WORK (70_reset_and_hazards.md R287; log 11, log 30); everything
but INST, STATUS, OUT, WORK and RESULT is kept. -/
def Obligations.NewfilterConstructsTheInstance : Prop :=
  ∀ (k : Kind) (parms : Option ParmMap) (s : State), Unbounded s.cfg → parmsFit s.cfg.paramBits parms = true →
    ∃ t, exec (newfilterOf k parms) s = .next t ∧ t.status = .ok ∧
      t.inst.valid = true ∧ t.inst.kind = k ∧ t.inst.hasMap = parms.isSome ∧
      (∀ key, (parms.bind fun m => m.lookup key.keyString) = none →
        parmReg t.inst key = ⟨false, (parmReg s.inst key).value⟩) ∧
      (∀ key v, (parms.bind fun m => m.lookup key.keyString) = some v → parmReg t.inst key = ⟨true, v⟩) ∧
      t.out = [] ∧ t.work = Work.initial ∧ t.cfg = s.cfg ∧ t.pending = s.pending ∧ t.input = s.input ∧ t.ip = s.ip ∧
      t.maxLen = s.maxLen

/-- NEWFILTER of a name that is not native (40_registry_factory.md R103, 60_exceptions.md R252): each of the four opaque
names and every unknown one ends with E_UNSUPPORTED_FILTER and INST.VALID 0, whatever the parameters are, and ENCODE, DECODE
and DECODELEN after it are refused, whatever kind they are read under (what a refusal keeps: log 8). That the other fields
of INST are kept is the model's reading of 60_exceptions.md R269 (log 21), and that NEWFILTER.UNKNOWN ends so for a native
name too, which no command decodes to, is its choice (log 27). -/
def Obligations.UnsupportedNamesClearTheInstance : Prop :=
  ∀ (parms : Option ParmMap) (name : Bytes) (s : State) (i : Instr), Unbounded s.cfg →
    i ∈ [.newfilterCcittfax parms, .newfilterJbig2 parms, .newfilterDct parms, .newfilterJpx parms,
      .newfilterUnknown name parms] →
    ∃ t, exec i s = .next t ∧
      FailsAs (.error .unsupportedFilter) { s with inst := { s.inst with valid := false } } t ∧
      ∀ (k : Kind) (input : Bytes) (n : Int) (j : Instr), fitsParamBits s.cfg.paramBits n = true →
        j = decodeEncode k input ∨ j = decodeDecode k input ∨ j = decodeDecodelen k n input →
        ∃ u, exec j t = .next u ∧ RefusedAs .noInstance t u

/-- What does not fit PARAM_BITS is refused with E_BAD_COMMAND, INST and every other register but STATUS, OUT and RESULT
kept: (a) a NEWFILTER of a native name with such a value (10_state.md R22, 60_exceptions.md R266); (b) a DECODELEN with
such a `maxLen`, on every kind and with or without an instance (92_eei_decisions.md D8; that the refusal is E_BAD_COMMAND
and comes first is the model's reading, log 15; what a refusal keeps: log 8). -/
def Obligations.ValuesBeyondParamBitsAreRefused : Prop :=
  (∀ (k : Kind) (parms : Option ParmMap) (s : State) (b : Nat) (key : ParmKey) (v : Int), Unbounded s.cfg →
    s.cfg.paramBits = some b → (parms.bind fun m => m.lookup key.keyString) = some v →
    ¬ (-(2 ^ (b - 1) : Int) ≤ v ∧ v < (2 ^ (b - 1) : Int)) →
      ∃ t, exec (newfilterOf k parms) s = .next t ∧ RefusedAs .badCommand s t) ∧
  (∀ (k : Kind) (input : Bytes) (n : Int) (s : State) (b : Nat), Unbounded s.cfg → s.cfg.paramBits = some b →
    ¬ (-(2 ^ (b - 1) : Int) ≤ n ∧ n < (2 ^ (b - 1) : Int)) →
      ∃ t, exec (decodeDecodelen k n input) s = .next t ∧ RefusedAs .badCommand s t)

/-- Reading a parameter (10_state.md R23): (a) a key of the map is present and reads as its value; (b) a key absent from
the map, and every key of an absent map, reads as its default 1, 1, 8, 1; (c) an absent map gives the same parameters as
an empty one; (d) a key other than the four, such as `EarlyChange`, changes nothing of the instance. -/
def Obligations.ParametersAndTheirDefaults : Prop :=
  (∀ (k : Kind) (m : ParmMap) (old : Inst) (key : ParmKey) (v : Int), m.lookup key.keyString = some v →
    hasParm (constructInst k (some m) old) key = true ∧ parm (constructInst k (some m) old) key = v) ∧
  (∀ (k : Kind) (parms : Option ParmMap) (old : Inst) (key : ParmKey),
    (parms.bind fun m => m.lookup key.keyString) = none →
    hasParm (constructInst k parms old) key = false ∧
      parm (constructInst k parms old) key =
        (match key with | .predictor => 1 | .colors => 1 | .bitsPerComponent => 8 | .columns => 1)) ∧
  (∀ (k : Kind) (old : Inst) (key : ParmKey),
    parm (constructInst k none old) key = parm (constructInst k (some []) old) key ∧
      hasParm (constructInst k none old) key = hasParm (constructInst k (some []) old) key) ∧
  (∀ (k : Kind) (m : ParmMap) (old : Inst) (name : Bytes) (v : Int),
    (∀ key : ParmKey, name ≠ key.keyString) →
    constructInst k (some ((name, v) :: m)) old = constructInst k (some m) old)

/-- A data command before any successful NEWFILTER is refused with E_NO_INSTANCE, INST kept, whatever the kind, the input
and the limit (40_registry_factory.md R104, 60_exceptions.md R266, 70_reset_and_hazards.md R281). STATUS changes, OUT is
empty, RESULT is unspecified and nothing else changes (log 8). -/
def Obligations.DataCommandsNeedAnInstance : Prop :=
  ∀ (k : Kind) (input : Bytes) (n : Int) (s : State) (i : Instr), Unbounded s.cfg → s.inst.valid = false →
    fitsParamBits s.cfg.paramBits n = true →
    i = decodeEncode k input ∨ i = decodeDecode k input ∨ i = decodeDecodelen k n input →
      ∃ t, exec i s = .next t ∧ RefusedAs .noInstance s t

/-- The validation sequence (40_registry_factory.md R109, 60_exceptions.md R268, 47_bounded_decode.md R246): (a) DECODE and
DECODELEN on an LZW or Flate instance and ENCODE on a Flate one end with the error of the first of the five checks that
fails, before any byte is decoded, at every `maxLen` and under every BOUNDED_STOP, INST kept; (b, c) the trace of such a
decode is that error behind no bytes (47_bounded_decode.md R247). -/
def Obligations.FirstFailingCheckIsReported : Prop :=
  ∀ (s : State) (input : Bytes) (n : Int) (e : EngineError), Ready s → fitsParamBits s.cfg.paramBits n = true →
    (∀ i : Instr,
      ((i = .decodeLzw input ∨ i = .decodelenLzw n input) ∧ ((checks .lzw s.inst).find? (·.1)).map (·.2) = some e ∨
        (i = .decodeFlate input ∨ i = .decodelenFlate n input ∨ i = .encodeFlate input) ∧
          ((checks .flate s.inst).find? (·.1)).map (·.2) = some e) →
        ∃ t, exec i s = .next t ∧ FailsAs (.error e) { s with input := input } t) ∧
    (((checks .lzw s.inst).find? (·.1)).map (·.2) = some e → traceOf .lzw input s = some ([], some e)) ∧
    (((checks .flate s.inst).find? (·.1)).map (·.2) = some e → traceOf .flate input s = some ([], some e))

/-- RowGeometry (40_registry_factory.md R107): for every geometry that passes validation, `bytesPerPixel` is the least
number of bytes that hold `colors * bpc` bits, and `rowBytes` is `columns * bytesPerPixel`, at least 1. That the clamp to
1 never acts is the spec's own inference ("so the clamp never changes the value for parameters that pass rule R109",
marked there as derived from R109). -/
def Obligations.RowGeometryOfLegalParameters : Prop :=
  ∀ i : Inst, GeometryOk i →
    parm i .colors * parm i .bitsPerComponent ≤ 8 * (bytesPerPixel i : Int) ∧
      8 * ((bytesPerPixel i : Int) - 1) < parm i .colors * parm i .bitsPerComponent ∧
      1 ≤ bytesPerPixel i ∧ (rowBytes i : Int) = parm i .columns * bytesPerPixel i ∧ 1 ≤ rowBytes i

/-- ASCII85, ASCIIHex and RunLength read no parameter (40_registry_factory.md R105), nor does ENCODE on an LZW instance
(42_lzw.md R155): two engines that differ in the map bit and the four parameter registers only give every data command of
these kinds, and ENCODE.LZW, the same outcome, up to those registers. That it is the same in the registers which the spec
leaves unspecified after a command is the model's (free values under one counter, logs 8, 9, 25). -/
def Obligations.ParameterlessCodecsReadNoParameter : Prop :=
  ∀ (k : Kind) (input : Bytes) (n : Int) (s t : State) (h : Bool) (p c b w : Parm) (i : Instr),
    ((k = .ascii85 ∨ k = .asciiHex ∨ k = .runLength) ∧
        (i = decodeEncode k input ∨ i = decodeDecode k input ∨ i = decodeDecodelen k n input) ∨
      i = .encodeLzw input) →
    exec i s = .next t →
      exec i { s with inst := { s.inst with hasMap := h, predictor := p, colors := c, bitsPerComponent := b, columns := w } } =
        .next
          { t with inst := { t.inst with hasMap := h, predictor := p, colors := c, bitsPerComponent := b, columns := w } }

/-! ## RunLength -/

/-- The packets (46_runlength.md R227, R229, R230), from the state behind the length byte: (a) RL.LIT with its `len + 1`
bytes there emits them and moves ip past them; (b) with fewer it raises E_RL_TRUNCATED; (c) RL.REP emits `257 - L` copies,
L the length byte `128 + len`, of the byte at ip and moves ip past it; (d) with no byte it raises E_RL_TRUNCATED; (e)
RL.EOD ends the command `ok` with the bytes emitted so far. Nothing else changes. -/
def Obligations.RunLengthPackets : Prop :=
  (∀ (len : BitVec 7) (s : State), s.ip + (len.toNat + 1) ≤ s.input.length →
    exec (.rlLit len) s =
      .next
        { s with
          out := s.out ++ (s.input.drop s.ip).take (len.toNat + 1)
          ip := s.ip + (len.toNat + 1) }) ∧
  (∀ (len : BitVec 7) (s : State), s.input.length < s.ip + (len.toNat + 1) →
    ∃ t, exec (.rlLit len) s = .next t ∧ FailsAs (.error .rlTruncated) s t) ∧
  (∀ (len : BitVec 7) (s : State) (b : Byte), len ≠ 0 → s.input[s.ip]? = some b →
    exec (.rlRep len) s =
      .next { s with out := s.out ++ List.replicate (257 - (128 + len.toNat)) b, ip := s.ip + 1 }) ∧
  (∀ (len : BitVec 7) (s : State), len ≠ 0 → s.input.length ≤ s.ip →
    ∃ t, exec (.rlRep len) s = .next t ∧ FailsAs (.error .rlTruncated) s t) ∧
  (∀ s : State, Unbounded s.cfg → ∃ t, exec .rlEod s = .next t ∧ EndsOkAs s t)

/-- E_RL_TRUNCATED is raised in the three places of 46_runlength.md R228: behind any sequence of well-formed packets, DECODE
raises it where the input ends and a length byte is due, where a literal packet has fewer than `L + 1` bytes, and where a
repeat packet has no byte; the trace of such a decode is that error behind the content of the packets
(47_bounded_decode.md R247). -/
def Obligations.CutPacketsAreTruncated : Prop :=
  ∀ (ps : List RlPacket) (tail : Bytes) (s : State), (∀ p ∈ ps, p.wf = true) → Ready s →
    (tail = [] ∨ (∃ (L : Byte) (l : Bytes), L < 128 ∧ l.length < L.toNat + 1 ∧ tail = L :: l) ∨
      (∃ L : Byte, 128 < L ∧ tail = [L])) →
    (∃ t, exec (.decodeRunlength (ps.flatMap RlPacket.code ++ tail)) s = .next t ∧
      FailsAs (.error .rlTruncated) { s with input := ps.flatMap RlPacket.code ++ tail } t) ∧
    traceOf .runLength (ps.flatMap RlPacket.code ++ tail) s = some (ps.flatMap RlPacket.content, some .rlTruncated)

/-- DECODE and DECODELEN on a RunLength instance (46_runlength.md R226 to R231, 47_bounded_decode.md R243): for every
sequence of well-formed packets, (a) with the end-of-data byte and any bytes behind it, DECODE delivers the content of the
packets, nothing after the terminator having a say; (b) DECODELEN delivers an opening part of it, at least `min n len`
bytes. -/
def Obligations.RunLengthDecodesPackets : Prop :=
  ∀ (ps : List RlPacket) (junk : Bytes) (n : Nat) (s : State), (∀ p ∈ ps, p.wf = true) → Ready s →
    fitsParamBits s.cfg.paramBits n = true →
    (∃ t, exec (.decodeRunlength (ps.flatMap RlPacket.code ++ 0x80 :: junk)) s = .next t ∧
      Delivers (ps.flatMap RlPacket.content) (ps.flatMap RlPacket.code ++ 0x80 :: junk) s t) ∧
    (∃ t, exec (.decodelenRunlength n (ps.flatMap RlPacket.code ++ 0x80 :: junk)) s = .next t ∧
      DeliversSome n (ps.flatMap RlPacket.content) (ps.flatMap RlPacket.code ++ 0x80 :: junk) s t)

/-- RunLength round trip (46_runlength.md section 3; R234 is marked there as derived from R226 to R232): ENCODE of every
byte sequence ends `ok`; what it delivers is well-formed packets, whose content is the sequence, and one end-of-data byte,
at most `2 n + 1` bytes; and DECODE of it, on every RunLength engine, delivers the sequence again. -/
def Obligations.RunLengthRoundTrip : Prop :=
  ∀ (d : Bytes) (s : State), Ready s →
    ∃ (t : State) (ps : List RlPacket), exec (.encodeRunlength d) s = .next t ∧ Delivers t.out d s t ∧
      (∀ p ∈ ps, p.wf = true) ∧ ps.flatMap RlPacket.content = d ∧ t.out = ps.flatMap RlPacket.code ++ [0x80] ∧
      t.out.length ≤ 2 * d.length + 1 ∧
      ∀ s' : State, Ready s' → ∃ u, exec (.decodeRunlength t.out) s' = .next u ∧ Delivers d t.out s' u

/-! ## ASCIIHex -/

/-- The symbols (45_asciihex.md R212 to R215), from the state behind the byte: (a) the first digit of a pair is held; (b)
the second emits the byte, the first digit high; (c) white space changes nothing; (d, e) the terminator ends the command,
a lone digit padded with 0. Nothing else changes; that the lone digit stays in its register in (e), where R214 writes none,
is the model's reading (log 17). -/
def Obligations.HexSymbols : Prop :=
  (∀ (ch : Byte) (v : BitVec 4) (s : State), hexVal ch = some v → s.work.hi = none →
    exec (.hexDigit ch) s = .next { s with work := { s.work with hi := some v } }) ∧
  (∀ (ch : Byte) (v h : BitVec 4) (s : State), hexVal ch = some v → s.work.hi = some h →
    exec (.hexDigit ch) s =
      .next { s with out := s.out ++ [BitVec.ofNat 8 (16 * h.toNat + v.toNat)], work := { s.work with hi := none } }) ∧
  (∀ (ch : Byte) (s : State), ch ∈ whiteSpace → exec (.hexWs ch) s = .next s) ∧
  (∀ s : State, Unbounded s.cfg → s.work.hi = none → ∃ t, exec .hexEod s = .next t ∧ EndsOkAs s t) ∧
  (∀ (h : BitVec 4) (s : State), Unbounded s.cfg → s.work.hi = some h →
    ∃ t, exec .hexEod s = .next t ∧ EndsOkAs { s with out := s.out ++ [BitVec.ofNat 8 (16 * h.toNat)] } t)

/-- ENCODE on an ASCIIHex instance delivers two lower-case digits per byte, the high nibble first, and the terminator:
`2 len + 1` bytes (45_asciihex.md R219). -/
def Obligations.HexEncoderWritesLowerCase : Prop :=
  ∀ (d : Bytes) (s : State), Ready s →
    ∃ t, exec (.encodeAsciihex d) s = .next t ∧ Delivers (hexText d ++ [0x3E]) d s t ∧ t.out.length = 2 * d.length + 1

/-- DECODE and DECODELEN on an ASCIIHex instance (45_asciihex.md R211 to R218, 47_bounded_decode.md R243): for every body
of digits and white space, (a) with the terminator and any bytes behind it, DECODE delivers the pairs of its digits, a
lone last digit padded with 0; (b) DECODELEN delivers an opening part of that; (c) with no terminator DECODE raises
E_HEX_MISSING_EOD; (d) with a byte that is neither digit, white space nor terminator next, it raises E_HEX_INVALID; (e, f)
the traces of the two are those errors behind the whole pairs of the digits (47_bounded_decode.md R247). -/
def Obligations.HexDecodesDigitsAndWhiteSpace : Prop :=
  ∀ (body junk : Bytes) (bad : Byte) (n : Nat) (s : State),
    (∀ ch ∈ body, ch ∈ whiteSpace ∨ (hexVal ch).isSome = true) → bad ∉ whiteSpace → bad ≠ 0x3E → hexVal bad = none →
    Ready s → fitsParamBits s.cfg.paramBits n = true →
    (∃ t, exec (.decodeAsciihex (body ++ 0x3E :: junk)) s = .next t ∧
      Delivers (hexContent (body.filterMap hexVal)) (body ++ 0x3E :: junk) s t) ∧
    (∃ t, exec (.decodelenAsciihex n (body ++ 0x3E :: junk)) s = .next t ∧
      DeliversSome n (hexContent (body.filterMap hexVal)) (body ++ 0x3E :: junk) s t) ∧
    (∃ t, exec (.decodeAsciihex body) s = .next t ∧ FailsAs (.error .hexMissingEod) { s with input := body } t) ∧
    (∃ t, exec (.decodeAsciihex (body ++ bad :: junk)) s = .next t ∧
      FailsAs (.error .hexInvalid) { s with input := body ++ bad :: junk } t) ∧
    traceOf .asciiHex body s = some (hexPairs (body.filterMap hexVal), some .hexMissingEod) ∧
    traceOf .asciiHex (body ++ bad :: junk) s = some (hexPairs (body.filterMap hexVal), some .hexInvalid)

/-- ASCIIHex round trip (45_asciihex.md section 3; R220 is marked there as derived from R211, R213, R215, R219). -/
def Obligations.HexRoundTrip : Prop :=
  ∀ (d : Bytes) (s : State), Ready s →
    ∃ t, exec (.encodeAsciihex d) s = .next t ∧ Delivers t.out d s t ∧
      ∀ s' : State, Ready s' → ∃ u, exec (.decodeAsciihex t.out) s' = .next u ∧ Delivers d t.out s' u

/-! ## ASCII85 -/

/-- The symbols (44_ascii85.md R193 to R196), from the state behind them: (a) a digit that does not complete a group joins
it; (b) the fifth digit emits the four bytes of a number of at most `2^32 - 1`; (c) `z` between groups emits four zero
bytes; (d) white space changes nothing; (e) the terminator with no group in progress ends the command; (f) with 2 to 4
digits it emits one byte fewer than digits, the missing digits being 84. Nothing else changes; that the group register
keeps its digits in (f), where R196 writes none, is the model's reading (log 17), and what a digit does to a register that
holds 5 or more entries, or entries above 84, which 10_state.md R34 excludes, is its choice (log 34). -/
def Obligations.Ascii85Symbols : Prop :=
  (∀ (ch : Byte) (s : State), 0x21 ≤ ch → ch ≤ 0x75 → s.work.group.length ≠ 4 →
    exec (.a85Digit ch) s = .next { s with work := { s.work with group := s.work.group ++ [ch.toNat - 33] } }) ∧
  (∀ (ch : Byte) (d0 d1 d2 d3 : Nat) (s : State), 0x21 ≤ ch → ch ≤ 0x75 → s.work.group = [d0, d1, d2, d3] →
    a85Number d0 d1 d2 d3 (ch.toNat - 33) < 2 ^ 32 →
    exec (.a85Digit ch) s =
      .next
        { s with
          out := s.out ++ a85Bytes (a85Number d0 d1 d2 d3 (ch.toNat - 33))
          work := { s.work with group := [] } }) ∧
  (∀ s : State, s.work.group = [] → exec .a85Z s = .next { s with out := s.out ++ [0, 0, 0, 0] }) ∧
  (∀ (ch : Byte) (s : State), ch ∈ whiteSpace → exec (.a85Ws ch) s = .next s) ∧
  (∀ s : State, Unbounded s.cfg → s.work.group = [] → ∃ t, exec .a85Eod s = .next t ∧ EndsOkAs s t) ∧
  (∀ (d0 d1 : Nat) (more : List Nat) (s : State), Unbounded s.cfg → s.work.group = d0 :: d1 :: more → more.length ≤ 2 →
    a85Number d0 d1 (more.getD 0 84) (more.getD 1 84) 84 < 2 ^ 32 →
    ∃ t, exec .a85Eod s = .next t ∧
      EndsOkAs
        { s with
          out := s.out ++ (a85Bytes (a85Number d0 d1 (more.getD 0 84) (more.getD 1 84) 84)).take (1 + more.length) } t)

/-- What is malformed raises E_A85_INVALID (44_ascii85.md R194 to R198, 60_exceptions.md R259): (a) a fifth digit that lifts
the number above `2^32 - 1`; (b) `z` inside a group; (c) a final group of one digit; (d) a final group above `2^32 - 1`;
(e) an illegal byte. For a register with entries above 84, which 10_state.md R34 excludes, that is the model's choice
(log 34). -/
def Obligations.Ascii85Traps : Prop :=
  (∀ (ch : Byte) (d0 d1 d2 d3 : Nat) (s : State), 0x21 ≤ ch → ch ≤ 0x75 → s.work.group = [d0, d1, d2, d3] →
    2 ^ 32 ≤ a85Number d0 d1 d2 d3 (ch.toNat - 33) →
    ∃ t, exec (.a85Digit ch) s = .next t ∧ FailsAs (.error .a85Invalid) s t) ∧
  (∀ s : State, s.work.group ≠ [] → ∃ t, exec .a85Z s = .next t ∧ FailsAs (.error .a85Invalid) s t) ∧
  (∀ (d : Nat) (s : State), s.work.group = [d] → ∃ t, exec .a85Eod s = .next t ∧ FailsAs (.error .a85Invalid) s t) ∧
  (∀ (d0 d1 : Nat) (more : List Nat) (s : State), s.work.group = d0 :: d1 :: more → more.length ≤ 2 →
    2 ^ 32 ≤ a85Number d0 d1 (more.getD 0 84) (more.getD 1 84) 84 →
    ∃ t, exec .a85Eod s = .next t ∧ FailsAs (.error .a85Invalid) s t) ∧
  (∀ (ch : Byte) (s : State), (Instr.a85Illegal ch).wf = true →
    ∃ t, exec (.a85Illegal ch) s = .next t ∧ FailsAs (.error .a85Invalid) s t)

/-- ENCODE on an ASCII85 instance delivers five characters per four bytes, `z` for a word of zeros, `r + 1` characters for a
last part of `r` bytes, and the terminator, which is the only place of a `~` (44_ascii85.md R200 to R202). -/
def Obligations.Ascii85EncoderText : Prop :=
  ∀ (d : Bytes) (s : State), Ready s →
    ∃ t, exec (.encodeAscii85 d) s = .next t ∧ Delivers (a85Text d ++ [0x7E, 0x3E]) d s t ∧ (0x7E : Byte) ∉ a85Text d

/-- An ASCII85 input without the byte pair `7E 3E` raises E_A85_MISSING_EOD, whatever else is wrong with it, at every `maxLen`
and under every BOUNDED_STOP (44_ascii85.md R192, 47_bounded_decode.md R246, 60_exceptions.md R258); the trace of such a decode
is that error behind no bytes (47_bounded_decode.md R247). -/
def Obligations.Ascii85MissingTerminator : Prop :=
  ∀ (input : Bytes) (n : Int) (s : State), ¬ [0x7E, 0x3E] <:+: input → Ready s → fitsParamBits s.cfg.paramBits n = true →
    (∀ i : Instr, i = .decodeAscii85 input ∨ i = .decodelenAscii85 n input →
      ∃ t, exec i s = .next t ∧ FailsAs (.error .a85MissingEod) { s with input := input } t) ∧
    traceOf .ascii85 input s = some ([], some .a85MissingEod)

/-- DECODE and DECODELEN on an ASCII85 instance (44_ascii85.md R192 to R199, 47_bounded_decode.md R243): for every body
before the first terminator and any bytes behind it, white space removed, (a) if the body stands for bytes, DECODE
delivers them; (b) DECODELEN delivers an opening part of them; (c) if it is malformed, DECODE raises E_A85_INVALID, and the
trace is that error behind the bytes of the groups before the first malformed one (47_bounded_decode.md R247). -/
def Obligations.Ascii85DecodesTheBody : Prop :=
  ∀ (body junk : Bytes) (n : Nat) (s : State), ¬ [0x7E, 0x3E] <:+: body → Ready s →
    fitsParamBits s.cfg.paramBits n = true →
    (∀ y, a85Content (body.filter fun c => decide (c ∉ whiteSpace)) = some y →
      (∃ t, exec (.decodeAscii85 (body ++ 0x7E :: 0x3E :: junk)) s = .next t ∧
        Delivers y (body ++ 0x7E :: 0x3E :: junk) s t) ∧
      (∃ t, exec (.decodelenAscii85 n (body ++ 0x7E :: 0x3E :: junk)) s = .next t ∧
        DeliversSome n y (body ++ 0x7E :: 0x3E :: junk) s t)) ∧
    (a85Content (body.filter fun c => decide (c ∉ whiteSpace)) = none →
      (∃ t, exec (.decodeAscii85 (body ++ 0x7E :: 0x3E :: junk)) s = .next t ∧
        FailsAs (.error .a85Invalid) { s with input := body ++ 0x7E :: 0x3E :: junk } t) ∧
      traceOf .ascii85 (body ++ 0x7E :: 0x3E :: junk) s =
        some (a85Opening (body.filter fun c => decide (c ∉ whiteSpace)), some .a85Invalid))

/-- ASCII85 round trip (44_ascii85.md section 3; R203 is marked there as derived from R192 to R202). -/
def Obligations.Ascii85RoundTrip : Prop :=
  ∀ (d : Bytes) (s : State), Ready s →
    ∃ t, exec (.encodeAscii85 d) s = .next t ∧ Delivers t.out d s t ∧
      ∀ s' : State, Ready s' → ∃ u, exec (.decodeAscii85 t.out) s' = .next u ∧ Delivers d t.out s' u

/-! ## Predictors -/

/-- The Paeth function (41_predictor.md R130): the operand nearest to `a + b - c` on the integers, ties going to `a`, then
`b`. -/
def Obligations.PaethPicksTheNearest : Prop :=
  ∀ a b c : Byte,
    let p : Int := (a.toNat : Int) + b.toNat - c.toNat
    (|p - a.toNat| ≤ |p - b.toNat| ∧ |p - a.toNat| ≤ |p - c.toNat| → paeth a b c = a) ∧
    (¬ (|p - a.toNat| ≤ |p - b.toNat| ∧ |p - a.toNat| ≤ |p - c.toNat|) ∧ |p - b.toNat| ≤ |p - c.toNat| →
      paeth a b c = b) ∧
    (¬ (|p - a.toNat| ≤ |p - b.toNat| ∧ |p - a.toNat| ≤ |p - c.toNat|) ∧ ¬ |p - b.toNat| ≤ |p - c.toNat| →
      paeth a b c = c)

/-- The row filters (41_predictor.md R124 to R129): with a whole chunk at the row index, PNG.NONE, PNG.SUB, PNG.UP, PNG.AVG
and PNG.PAETH each emit the row whose every byte is the raw byte plus the filter's term of the reconstructed neighbours,
modulo 256; the row becomes the previous row and the row index advances. Nothing else changes. For a geometry that does not
pass validation, where 40_registry_factory.md R107 defines no row, what counts as one is the model's choice (log 32), and so
is the 0 read past the end of a previous row that is shorter than the row (log 33). -/
def Obligations.PngRowFilters : Prop :=
  ∀ (i : Instr) (tag : Nat) (s : State),
    (i, tag) ∈ ([(.pngNone, 0), (.pngSub, 1), (.pngUp, 2), (.pngAvg, 3), (.pngPaeth, 4)] : List (Instr × Nat)) →
    s.work.rowIndex * (1 + rowBytes s.inst) + (1 + rowBytes s.inst) ≤ s.work.raw.length →
      ∃ row,
        PngRowOf tag (bytesPerPixel s.inst) s.work.prevRow
          ((s.work.raw.drop (s.work.rowIndex * (1 + rowBytes s.inst) + 1)).take (rowBytes s.inst)) row ∧
        exec i s =
          .next
            { s with
              out := s.out ++ row
              work := { s.work with prevRow := some row, curRow := row, rowIndex := s.work.rowIndex + 1 } }

/-- TIFF.HDIFF (41_predictor.md R122, R123): with a whole row at the row index it emits the row in which every byte from
`colors` on is the raw byte plus the reconstructed byte `colors` before it, modulo 256, whatever `bpc` is; the row index
advances. Nothing else changes: no row is carried over, and neither row buffer is written (20_memory.md R50). For a `columns`
or `bpc` that does not pass validation, what counts as a row is the model's choice (log 32). -/
def Obligations.TiffRowTransform : Prop :=
  ∀ s : State, 1 ≤ parm s.inst .colors →
    s.work.rowIndex * rowBytes s.inst + rowBytes s.inst ≤ s.work.raw.length →
      ∃ row,
        TiffRowOf (parm s.inst .colors).toNat
          ((s.work.raw.drop (s.work.rowIndex * rowBytes s.inst)).take (rowBytes s.inst)) row ∧
        exec .tiffHdiff s =
          .next
            { s with out := s.out ++ row, work := { s.work with rowIndex := s.work.rowIndex + 1 } }

/-- The Predictor values on a buffer RAW (41_predictor.md R120, R123, R131 to R133, R135): (a) PRED.NONE emits RAW
unchanged; (b) PRED.TIFF transforms it row by row, or raises E_PREDICTOR_DATA where it is no whole number of rows; (c)
PRED.PNG10 to PRED.PNG15, all alike, reconstruct it chunk by chunk, each by its own tag, the tags removed, or raise
E_PREDICTOR_DATA where it is no whole number of chunks or a tag is above 4. INST, IN, ip, MAXLEN and RAW itself are kept
where the command ends `ok`. -/
def Obligations.PredictorsOnAWholeBuffer : Prop :=
  ∀ s : State, Unbounded s.cfg → GeometryOk s.inst →
    (∃ t, exec .predNone s = .next t ∧ EndsOkAs { s with out := s.out ++ s.work.raw } t) ∧
    (s.work.raw.length % rowBytes s.inst = 0 →
      ∃ t y, exec .predTiff s = .next t ∧
        TiffBufferOf (rowBytes s.inst) (parm s.inst .colors).toNat s.work.raw y ∧
        t.work.raw = s.work.raw ∧ EndsOkAs { s with out := s.out ++ y, work := t.work } t) ∧
    (s.work.raw.length % rowBytes s.inst ≠ 0 →
      ∃ t, exec .predTiff s = .next t ∧ FailsAs (.error .predictorData) s t) ∧
    ∀ i ∈ ([.predPng10, .predPng11, .predPng12, .predPng13, .predPng14, .predPng15] : List Instr),
      (s.work.raw.length % (1 + rowBytes s.inst) = 0 ∧
          (∀ r, r < s.work.raw.length / (1 + rowBytes s.inst) → s.work.raw.getD (r * (1 + rowBytes s.inst)) 0 ≤ 4) →
        ∃ t y, exec i s = .next t ∧ PngBufferOf (rowBytes s.inst) (bytesPerPixel s.inst) s.work.raw y ∧
          t.work.raw = s.work.raw ∧ EndsOkAs { s with out := s.out ++ y, work := t.work } t) ∧
      (¬ (s.work.raw.length % (1 + rowBytes s.inst) = 0 ∧
          (∀ r, r < s.work.raw.length / (1 + rowBytes s.inst) → s.work.raw.getD (r * (1 + rowBytes s.inst)) 0 ≤ 4)) →
        ∃ t, exec i s = .next t ∧ FailsAs (.error .predictorData) s t)

/-- The rows of the table that stand for an illegal symbol raise their error (30_encoding.md R85): (a) a PNG tag from 5
on, E_PREDICTOR_DATA; (b) an illegal ASCIIHex byte, E_HEX_INVALID; (c) an illegal LZW code, E_LZW_CORRUPT; (d) a Predictor
value in no family, E_UNDEFINED_PREDICTOR; (e) an illegal ASCII85 byte, E_A85_INVALID. They do so for every operand; for
one outside the row's class, which no word decodes to, that is the model's choice (log 27), as is (f, g) the error of a
white-space row with a byte outside WS and (h, i) of a digit row with no digit, and (j) of RL.REP with the field 0. -/
def Obligations.IllegalSymbolsRaise : Prop :=
  (∀ (tag : Byte) (s : State), ∃ t, exec (.pngIllegal tag) s = .next t ∧ FailsAs (.error .predictorData) s t) ∧
  (∀ (ch : Byte) (s : State), ∃ t, exec (.hexIllegal ch) s = .next t ∧ FailsAs (.error .hexInvalid) s t) ∧
  (∀ (code : BitVec 12) (s : State), ∃ t, exec (.lzwIllegal code) s = .next t ∧ FailsAs (.error .lzwCorrupt) s t) ∧
  (∀ (v : Int) (s : State), ∃ t, exec (.predUndefined v) s = .next t ∧ FailsAs (.error .undefinedPredictor) s t) ∧
  (∀ (ch : Byte) (s : State), ∃ t, exec (.a85Illegal ch) s = .next t ∧ FailsAs (.error .a85Invalid) s t) ∧
  (∀ (ch : Byte) (s : State), ch ∉ whiteSpace →
    ∃ t, exec (.hexWs ch) s = .next t ∧ FailsAs (.error .hexInvalid) s t) ∧
  (∀ (ch : Byte) (s : State), ch ∉ whiteSpace →
    ∃ t, exec (.a85Ws ch) s = .next t ∧ FailsAs (.error .a85Invalid) s t) ∧
  (∀ (ch : Byte) (s : State), hexVal ch = none →
    ∃ t, exec (.hexDigit ch) s = .next t ∧ FailsAs (.error .hexInvalid) s t) ∧
  (∀ (ch : Byte) (s : State), ¬ (0x21 ≤ ch ∧ ch ≤ 0x75) →
    ∃ t, exec (.a85Digit ch) s = .next t ∧ FailsAs (.error .a85Invalid) s t) ∧
  (∀ s : State, ∃ t, exec (.rlRep 0) s = .next t ∧ FailsAs (.error .rlTruncated) s t)

/-! ## LZW -/

/-- The data codes (42_lzw.md R146 to R148, R151), from the state behind the code, with the table not full: LZW.LIT stands
for its byte, LZW.REF for the entry of its code, LZW.KWKWK with `code = next` for the previous string and its first byte.
The string is appended to OUT, or to RAW when the predictor is not 1; but for the first data code one entry is defined;
the string becomes the previous one; the width grows when `next + 1` reaches `2^width`. Nothing else changes.
For working registers outside the ranges of 10_state.md R32 that is the model's choice (log 34). -/
def Obligations.LzwDataCodes : Prop :=
  ∀ (i : Instr) (str : Bytes) (s : State), s.work.next ≠ 4096 →
    ((∃ code : Byte, i = .lzwLit code ∧ str = [code]) ∨
      (∃ code : BitVec 12, i = .lzwRef code ∧ 258 ≤ code.toNat ∧ code.toNat < s.work.next ∧
        s.work.table[s.work.next - 1 - code.toNat]? = some str) ∨
      (∃ (code : BitVec 12) (p : Bytes), i = .lzwKwkwk code ∧ code.toNat = s.work.next ∧ s.work.prev = some p ∧
        str = p ++ p.take 1)) →
    let one := decide (parm s.inst .predictor = 1)
    let table := match s.work.prev with | none => s.work.table | some p => (p ++ str.take 1) :: s.work.table
    let next := match s.work.prev with | none => s.work.next | some _ => s.work.next + 1
    exec i s =
      .next
        { s with
          out := if one then s.out ++ str else s.out
          work :=
            { s.work with
              raw := if one then s.work.raw else s.work.raw ++ str
              table := table
              next := next
              prev := some str
              width := if s.work.width < 12 ∧ 2 ^ s.work.width ≤ next + 1 then s.work.width + 1 else s.work.width } }

/-- LZW.CLEAR and LZW.EOD (42_lzw.md R143, R145, R153): (a) a clear code resets width, next, the previous string and the
table, and nothing else, the table full or not; (b) the end-of-data code with Predictor 1 ends the command `ok`; (c) with
another predictor it hands RAW to the TIFF predictor, the registers which the spec leaves unspecified agreeing as the model's
free values do (logs 8, 9, 25). -/
def Obligations.LzwClearAndEndOfData : Prop :=
  (∀ s : State,
    exec .lzwClear s = .next { s with work := { s.work with width := 9, next := 258, prev := none, table := [] } }) ∧
  (∀ s : State, Unbounded s.cfg → parm s.inst .predictor = 1 → ∃ t, exec .lzwEod s = .next t ∧ EndsOkAs s t) ∧
  (∀ s : State, parm s.inst .predictor ≠ 1 → exec .lzwEod s = exec .predTiff s)

/-- A code that names no string raises E_LZW_CORRUPT (42_lzw.md R149, R152): (a) every data code with the table full; (b) a
reference outside the dictionary; (c) the entry about to be defined with no previous string, or another code in its place;
(d) whatever row a code decodes to: every data code above `next`, one equal to `next` with no previous string, and every one
with the table full. The instructions of (b) and (c), and those of (a), are ones no word decodes to in such a state: their
error is the model's choice (log 27). -/
def Obligations.LzwBadCodesAreCorrupt : Prop :=
  (∀ (code : Byte) (s : State), s.work.next = 4096 →
    ∃ t, exec (.lzwLit code) s = .next t ∧ FailsAs (.error .lzwCorrupt) s t) ∧
  (∀ (code : BitVec 12) (s : State), s.work.next = 4096 ∨ code.toNat < 258 ∨ s.work.next ≤ code.toNat →
    ∃ t, exec (.lzwRef code) s = .next t ∧ FailsAs (.error .lzwCorrupt) s t) ∧
  (∀ (code : BitVec 12) (s : State), s.work.next = 4096 ∨ s.work.prev = none ∨ code.toNat ≠ s.work.next →
    ∃ t, exec (.lzwKwkwk code) s = .next t ∧ FailsAs (.error .lzwCorrupt) s t) ∧
  (∀ (c : Nat) (s : State), 258 ≤ s.work.next → c ≠ 256 → c ≠ 257 →
    s.work.next < c ∨ (c = s.work.next ∧ s.work.prev = none) ∨ s.work.next = 4096 →
    ∃ t, exec (decodeLzw s.work.next s.work.prev.isSome c) s = .next t ∧ FailsAs (.error .lzwCorrupt) s t)

/-- The LZW registers stay in their ranges (10_state.md R32) and the width on its schedule (42_lzw.md R151): from working
registers in range, every code but an illegal or end-of-data one leads to a state with the registers in range, and with the
scheduled width if it was scheduled before. -/
def Obligations.LzwRegistersStayInRange : Prop :=
  ∀ (s : State) (c : Nat), LzwOk s.work → c ≠ 257 → c ≤ 4095 →
    (c = 256 ∨ (lzwString s.work.table.reverse s.work.prev c).isSome = true) →
      ∃ t, exec (decodeLzw s.work.next s.work.prev.isSome c) s = .next t ∧ LzwOk t.work ∧
        (s.work.width = scheduledWidth s.work.next → t.work.width = scheduledWidth t.work.next)

/-- DECODE and DECODELEN on an LZW instance (42_lzw.md R142 to R152, 30_encoding.md R83, 47_bounded_decode.md R243): for
every sequence of codes, each as wide as its place since the last clear says, (a) with Predictor 1, followed by the
end-of-data code and any bits, DECODE delivers what the codes stand for; (b) DECODELEN delivers an opening part of it;
with Predictor 1 or 2, (c) followed by too few bits for a code, or (d) holding an illegal code, DECODE raises E_LZW_CORRUPT;
the trace is then that error (e) with Predictor 1 behind what the codes before the fault stand for, (f) with Predictor 2
behind the whole rows of it, transformed (47_bounded_decode.md R247). -/
def Obligations.LzwDecodesCodeSequences : Prop :=
  ∀ (codes : List Nat) (input : Bytes) (n : Nat) (s : State), 257 ∉ codes → lzwFits 1 codes = true → Ready s →
    GeometryOk s.inst → parm s.inst .predictor = 1 ∨ parm s.inst .predictor = 2 →
    fitsParamBits s.cfg.paramBits n = true →
    (∀ y, parm s.inst .predictor = 1 → lzwContent [] none codes = some y → lzwBits 1 (codes ++ [257]) <+: bitsOf input →
      (∃ t, exec (.decodeLzw input) s = .next t ∧ Delivers y input s t) ∧
      (∃ t, exec (.decodelenLzw n input) s = .next t ∧ DeliversSome n y input s t)) ∧
    (lzwBits 1 codes <+: bitsOf input →
      (∃ y, lzwContent [] none codes = some y ∧ (bitsOf input).length < (lzwBits 1 (codes ++ [257])).length) ∨
        lzwContent [] none codes = none →
      (∃ t, exec (.decodeLzw input) s = .next t ∧ FailsAs (.error .lzwCorrupt) { s with input := input } t) ∧
      (parm s.inst .predictor = 1 → traceOf .lzw input s = some (lzwOpening [] none codes, some .lzwCorrupt)) ∧
      (parm s.inst .predictor = 2 →
        ∃ z, WholeRowsOf (rowBytes s.inst) (parm s.inst .colors).toNat (lzwOpening [] none codes) z ∧
          traceOf .lzw input s = some (z, some .lzwCorrupt)))

/-- ENCODE on an LZW instance completes for every input, whatever parameters INST holds (42_lzw.md R155); the output opens
with the clear code at 9 bits (R156). (That no parameter has a say in it: `ParameterlessCodecsReadNoParameter`.) -/
def Obligations.LzwEncodeOpensWithClear : Prop :=
  ∀ (d : Bytes) (s : State), Ready s →
    ∃ t, exec (.encodeLzw d) s = .next t ∧ Delivers t.out d s t ∧ numberBits 256 9 <+: bitsOf t.out

/-- LZW round trip (42_lzw.md R162): for every value of LZW_CLEAR_AFTER from 1 to 3837, ENCODE of every byte sequence ends
`ok` whatever the parameters are, and DECODE of what it delivered, on every LZW engine whose Predictor is 1 and whose
parameters pass validation, delivers the sequence again. R162 speaks of the reference value 3837; that every smaller value
round-trips is 92_eei_decisions.md D22 and rests on the model's place of the width increment before a clear code (log 12).
-/
def Obligations.LzwRoundTrip : Prop :=
  ∀ (d : Bytes) (s : State), Ready s → ConfigLegal s.cfg →
    ∃ t, exec (.encodeLzw d) s = .next t ∧ Delivers t.out d s t ∧
      ∀ s' : State, Ready s' → GeometryOk s'.inst → parm s'.inst .predictor = 1 →
        ∃ u, exec (.decodeLzw t.out) s' = .next u ∧ Delivers d t.out s' u

/-- The predictor after the expansion (42_lzw.md R153): where an instance with Predictor 1 decodes an input to `y`, an
instance that differs only in having Predictor 2 decodes it to what PRED.TIFF makes of the buffer `y`; where `y` is no whole
number of rows it raises E_PREDICTOR_DATA, in the trace behind the whole rows (47_bounded_decode.md R247). -/
def Obligations.LzwPredictorTwoTransformsTheExpansion : Prop :=
  ∀ (input y : Bytes) (s t : State), Ready s → GeometryOk s.inst → parm s.inst .predictor = 2 →
    exec (.decodeLzw input) { s with inst := { s.inst with predictor := ⟨true, 1⟩ } } = .next t →
    t.status = .ok → t.out = y →
      (y.length % rowBytes s.inst = 0 →
        ∃ u z, exec (.decodeLzw input) s = .next u ∧ Delivers z input s u ∧
          TiffBufferOf (rowBytes s.inst) (parm s.inst .colors).toNat y z) ∧
      (y.length % rowBytes s.inst ≠ 0 →
        (∃ u, exec (.decodeLzw input) s = .next u ∧ FailsAs (.error .predictorData) { s with input := input } u) ∧
          ∃ z, WholeRowsOf (rowBytes s.inst) (parm s.inst .colors).toNat y z ∧
            traceOf .lzw input s = some (z, some .predictorData))

/-! ## Flate -/

/-- DECODE on a Flate instance with legal parameters (43_flate.md R172, R174, R175): (a) where the primitive answers
`err`, it raises E_FLATE_CORRUPT, in the trace behind no bytes; (b) where it answers `ok r`, the command is the resolved Predictor value run on RAW = r
from freshly initialised working registers; (c) with Predictor 1 it delivers r and (d) DECODELEN an opening part of r; where r is broken, the trace is
E_PREDICTOR_DATA (e) with Predictor 2 behind the whole rows of r and (f) with 10 to 15 behind the rows of the `m` whole chunks
before the first illegal tag or the end (47_bounded_decode.md R247). In (b)
three things are the model's and not the rules': that ip is left at 0 (its reading, log 17), the initial values of curRow
and eodpos within WORK (its choice, log 30), and that the registers which 10_state.md R26 and 60_exceptions.md R269 leave
unspecified agree on both sides (free values under one counter, logs 8, 9, 25). -/
def Obligations.FlateDecodeIsInflateThenPredictor : Prop :=
  ∀ (input : Bytes) (n : Nat) (s : State), Ready s → GeometryOk s.inst →
    parm s.inst .predictor ∈ ([1, 2, 10, 11, 12, 13, 14, 15] : List Int) → fitsParamBits s.cfg.paramBits n = true →
    (inflate s.cfg input = none →
      (∃ t, exec (.decodeFlate input) s = .next t ∧ FailsAs (.error .flateCorrupt) { s with input := input } t) ∧
      traceOf .flate input s = some ([], some .flateCorrupt)) ∧
    ∀ r, inflate s.cfg input = some r →
      exec (.decodeFlate input) s =
          exec (decodePredictor (parm s.inst .predictor))
            { s with input := input, ip := 0, out := [], maxLen := -1, work := { Work.initial with raw := r } } ∧
        (parm s.inst .predictor = 1 →
          (∃ t, exec (.decodeFlate input) s = .next t ∧ Delivers r input s t) ∧
          (∃ t, exec (.decodelenFlate n input) s = .next t ∧ DeliversSome n r input s t)) ∧
        (parm s.inst .predictor = 2 → r.length % rowBytes s.inst ≠ 0 →
          ∃ z, WholeRowsOf (rowBytes s.inst) (parm s.inst .colors).toNat r z ∧
            traceOf .flate input s = some (z, some .predictorData)) ∧
        (∀ m, 10 ≤ parm s.inst .predictor → m ≤ r.length / (1 + rowBytes s.inst) →
          (∀ q, q < m → r.getD (q * (1 + rowBytes s.inst)) 0 ≤ 4) →
          (m = r.length / (1 + rowBytes s.inst) → r.length % (1 + rowBytes s.inst) ≠ 0) →
          (m < r.length / (1 + rowBytes s.inst) → 4 < r.getD (m * (1 + rowBytes s.inst)) 0) →
          ∃ z, PngBufferOf (rowBytes s.inst) (bytesPerPixel s.inst) (r.take (m * (1 + rowBytes s.inst))) z ∧
            traceOf .flate input s = some (z, some .predictorData))

/-- ENCODE on a Flate instance with legal parameters (43_flate.md R177 to R179): (a) with Predictor 1 it delivers the
primitive's answer and nothing else; (b) with Predictor 2 or 10 to 15 it is refused with E_ENCODE_PREDICTOR. IN, ip and
WORK are then as the start of the command left them (40_registry_factory.md R104; log 30), and nothing but STATUS, OUT and
RESULT changes at the refusal: the model's reading of R266 (log 8). -/
def Obligations.FlateEncodeIsDeflateOrRefusal : Prop :=
  ∀ (input : Bytes) (s : State), Ready s → GeometryOk s.inst →
    (parm s.inst .predictor = 1 →
      ∃ t, exec (.encodeFlate input) s = .next t ∧ Delivers (deflate s.cfg input) input s t) ∧
    (parm s.inst .predictor ∈ ([2, 10, 11, 12, 13, 14, 15] : List Int) →
      ∃ t, exec (.encodeFlate input) s = .next t ∧
        RefusedAs .encodePredictor { s with input := input, ip := 0, work := Work.initial } t)

/-- Flate round trip (43_flate.md section 3; R180 is marked there as derived from R171, R172, R177; the law of R171 is a
premise on the one input): where the primitive inflates what it deflated, DECODE of ENCODE delivers the input. -/
def Obligations.FlateRoundTrip : Prop :=
  ∀ (d : Bytes) (s : State), Ready s → GeometryOk s.inst → parm s.inst .predictor = 1 →
    inflate s.cfg (deflate s.cfg d) = some d →
      ∃ t u, exec (.encodeFlate d) s = .next t ∧ Delivers t.out d s t ∧
        exec (.decodeFlate t.out) t = .next u ∧ Delivers d t.out t u

/-! ## Bounded decode -/

/-- The stopping predicate (47_bounded_decode.md R241), with the source's worked examples. -/
def Obligations.StoppingPredicate : Prop :=
  (∀ (len : Nat) (maxLen : Int), maxLen < 0 → checkBufLen len maxLen = true) ∧
  (∀ (len : Nat) (maxLen : Int), 0 ≤ maxLen → (len : Int) < maxLen → checkBufLen len maxLen = true) ∧
  (∀ (len : Nat) (maxLen : Int), 0 ≤ maxLen → maxLen ≤ (len : Int) → checkBufLen len maxLen = false) ∧
  checkBufLen 100 (-1) = true ∧ checkBufLen 50 100 = true ∧ checkBufLen 100 100 = false ∧ checkBufLen 0 0 = false ∧
  checkBufLen 0 10 = true

/-- A negative limit means decode everything (47_bounded_decode.md R242, 30_encoding.md R88): on every kind and input
DECODELEN with it ends as DECODE does, in every register but MAXLEN, and with the limit -1 it is DECODE. R242 fixes the
result, `ok` or fault; that ip and WORK agree too (log 17), and RESULT, and after an error WORK and ip, which 10_state.md R26
and 60_exceptions.md R269 leave unspecified, is the model's: they are free values under one counter (logs 8, 9, 25). -/
def Obligations.NegativeLimitsDecodeEverything : Prop :=
  ∀ (k : Kind) (input : Bytes) (n : Int) (s : State), n < 0 → Ready s → fitsParamBits s.cfg.paramBits n = true →
    exec (decodeDecodelen k (-1) input) s = exec (decodeDecode k input) s ∧
    ∀ t, exec (decodeDecode k input) s = .next t →
      ∃ u, exec (decodeDecodelen k n input) s = .next u ∧ { u with maxLen := t.maxLen } = t

/-- DECODELEN obeys the relation of the bounded decode on every kind, input and limit, under every value of BOUNDED_STOP
(47_bounded_decode.md R243, R247): (a) the trace of the decode exists; (b) DECODE reports what the trace reports; (c) the
result of DECODELEN is one that the relation allows for the trace. (b) is the consistency sentence that R247 marks as
derived, and that `exact` and `lazy` satisfy the relation is marked so in R244 and R248; the mode `choose`, for an arbitrary
function of the case, is the model's (log 13). What the bytes of a trace are: in a clean decode what DECODE delivers, by (b);
behind an error, `FirstFailingCheckIsReported`, `CutPacketsAreTruncated`, `HexDecodesDigitsAndWhiteSpace`,
`Ascii85MissingTerminator`, `Ascii85DecodesTheBody`, `LzwDecodesCodeSequences`, `LzwPredictorTwoTransformsTheExpansion` and
`FlateDecodeIsInflateThenPredictor`. -/
def Obligations.BoundedDecodeObeysTheRelation : Prop :=
  ∀ (k : Kind) (input : Bytes) (n : Nat) (s : State), Ready s → fitsParamBits s.cfg.paramBits n = true →
    ∃ y stop, traceOf k input s = some (y, stop) ∧
      (∃ t, exec (decodeDecode k input) s = .next t ∧
        resultOf t = some (match stop with | none => .ok y | some e => .error e)) ∧
      (∃ t r, exec (decodeDecodelen k n input) s = .next t ∧ resultOf t = some r ∧ BoundedOk (y, stop) n r)

/-- Every result that the relation allows is given under some value of BOUNDED_STOP (47_bounded_decode.md R243): the model
leaves nothing out that a conforming engine may do. The mode `choose` is the model's (log 13). -/
def Obligations.EveryAllowedResultIsReached : Prop :=
  ∀ (k : Kind) (input : Bytes) (n : Nat) (s : State) (tr : Trace) (r : DecodeResult), Ready s →
    fitsParamBits s.cfg.paramBits n = true → traceOf k input s = some tr → BoundedOk tr n r →
      ∃ stop t, exec (decodeDecodelen k n input) { s with cfg := { s.cfg with boundedStop := stop } } = .next t ∧
        resultOf t = some r

/-- The reference refinement (47_bounded_decode.md R244): under `exact`, DECODELEN with a limit from 0 on reports the
error of DECODE, or delivers the first `min n len` bytes of what DECODE delivers. -/
def Obligations.ExactBoundedDecodeTruncates : Prop :=
  ∀ (k : Kind) (input : Bytes) (n : Nat) (s t : State), Ready s → s.cfg.boundedStop = .exact →
    fitsParamBits s.cfg.paramBits n = true → exec (decodeDecode k input) s = .next t →
      ∃ u, exec (decodeDecodelen k n input) s = .next u ∧ u.status = t.status ∧ u.out = t.out.take n ∧ u.inst = s.inst

/-! ## The whole machine -/

/-- What reset leaves (10_state.md R39, 70_reset_and_hazards.md R280, the premise `ResetState` of R291): INST.VALID 0,
STATUS OK, IN and OUT empty, ip 0, (a) in the state after reset and (b) after a reset of the host from every state. -/
def Obligations.ResetValues : Prop :=
  ResetState State.reset ∧
  (∀ (s : State) (rest : List HostEvent), s.pending = .reset :: rest → ∃ t, step s = .next t ∧ ResetState t)

/-- The invariant holds at reset (10_state.md R21, R22, R28). That no parameter is
present at reset is the model's choice (log 10). -/
def Obligations.InvariantAtReset : Prop :=
  Inv State.reset

/-- Every step keeps the invariant (10_state.md R21, R22, R28; 60_exceptions.md R269): a parameter is present only in an
instance that has a map and fits PARAM_BITS, and after a command that did not end `ok` OUT is empty. -/
def Obligations.StepKeepsTheInvariant : Prop :=
  ∀ s t : State, Inv s → step s = .next t → Inv t

/-- Every command terminates (70_reset_and_hazards.md section 3; marked there as derived) and records how it ended in STATUS
(60_exceptions.md R250): (a) from every state without finite capacities every command of the host, well-formed or not, leads
to a next state, the model neither faults nor refuses, and the number that STATUS then holds is one of 0 to 17; (b) the
numbers are those of the table of R251, and (c) a number tells the outcome: no two have the same. -/
def Obligations.EveryCommandTerminates : Prop :=
  (∀ (i : Instr) (s : State), isCommand i = true → Unbounded s.cfg →
    ∃ t, exec i s = .next t ∧ statusCode t.status ≤ 17) ∧
  ([.ok, .error .unsupportedFilter, .error .undefinedPredictor, .error .unsupportedPredictor, .error .colors, .error .bpc,
      .error .columns, .error .a85MissingEod, .error .a85Invalid, .error .hexInvalid, .error .hexMissingEod,
      .error .rlTruncated, .error .lzwCorrupt, .error .flateCorrupt, .error .predictorData, .refusal .noInstance,
      .refusal .encodePredictor, .refusal .badCommand] : List Status).map statusCode = List.range 18 ∧
  (∀ a b : Status, statusCode a = statusCode b → a = b)

/-- What a command does depends on the configuration, INST and the command alone (20_memory.md R58, 10_state.md R20,
70_reset_and_hazards.md R284, 60_exceptions.md R270): two engines that agree on these observe the same and keep agreeing,
whatever else their registers hold. -/
def Obligations.OutcomeDependsOnInstAndCommandOnly : Prop :=
  ∀ (i : Instr) (s s' t : State), isCommand i = true → s.cfg = s'.cfg → s.inst = s'.inst → exec i s = .next t →
    ∃ t', exec i s' = .next t' ∧ observe i t' = observe i t ∧ t'.out = t.out ∧ t'.inst = t.inst ∧ t'.cfg = t.cfg

/-- No command but NEWFILTER writes INST (10_state.md R21, R40; 70_reset_and_hazards.md R284); no command writes the
configuration or what the host still sends; MAXLEN after a data command that ended `ok` is as 10_state.md R29 and R40 say;
queries keep IN, ip and MAXLEN. -/
def Obligations.OnlyNewfilterWritesInst : Prop :=
  ∀ (i : Instr) (s t : State), isCommand i = true → exec i s = .next t →
    t.cfg = s.cfg ∧ t.pending = s.pending ∧ (isNewfilter i = false → t.inst = s.inst) ∧
    (isQuery i = true → t.input = s.input ∧ t.ip = s.ip ∧ t.maxLen = s.maxLen) ∧
    (∀ (k : Kind) (input : Bytes), i = decodeEncode k input → t.status = .ok → t.input = input ∧ t.maxLen = s.maxLen) ∧
    (∀ (k : Kind) (input : Bytes), i = decodeDecode k input → t.status = .ok → t.input = input ∧ t.maxLen = -1) ∧
    (∀ (k : Kind) (input : Bytes) (n : Int), i = decodeDecodelen k n input → t.status = .ok →
      t.input = input ∧ t.maxLen = n)

/-- Every instruction writes OUT by appending or discards it (00_scope.md R12, 10_state.md R28): after an in-stream symbol
OUT opens with what it held, unless the symbol raised an error, which leaves it empty. That a symbol stands alone as an
instruction is the model's reading of R6 (log 5). -/
def Obligations.SymbolsAppendToOut : Prop :=
  ∀ (i : Instr) (s t : State), isCommand i = false → exec i s = .next t →
    (s.out <+: t.out ∨ (t.out = [] ∧ ∃ e, t.status = .error e)) ∧ t.inst = s.inst ∧ t.input = s.input ∧ t.cfg = s.cfg

end
end

