-- ==== Sys2Proof/Laws/State.lean ====
section
/-! SUPPORT. What each named update of the state leaves in each field: one lemma per field, all by unfolding, so that no
proof unfolds a record update. -/

namespace Sys2Proof.Machine

/-! ## emit -/

@[simp] theorem emit_cfg (l : Bytes) (s : State) : (emit l s).cfg = s.cfg := rfl
@[simp] theorem emit_pending (l : Bytes) (s : State) : (emit l s).pending = s.pending := rfl
@[simp] theorem emit_free (l : Bytes) (s : State) : (emit l s).free = s.free := rfl
@[simp] theorem emit_inst (l : Bytes) (s : State) : (emit l s).inst = s.inst := rfl
@[simp] theorem emit_status (l : Bytes) (s : State) : (emit l s).status = s.status := rfl
@[simp] theorem emit_result (l : Bytes) (s : State) : (emit l s).result = s.result := rfl
@[simp] theorem emit_input (l : Bytes) (s : State) : (emit l s).input = s.input := rfl
@[simp] theorem emit_ip (l : Bytes) (s : State) : (emit l s).ip = s.ip := rfl
@[simp] theorem emit_out (l : Bytes) (s : State) : (emit l s).out = s.out ++ l := rfl
@[simp] theorem emit_maxLen (l : Bytes) (s : State) : (emit l s).maxLen = s.maxLen := rfl
@[simp] theorem emit_work (l : Bytes) (s : State) : (emit l s).work = s.work := rfl

/-! ## startCommand -/

@[simp] theorem startCommand_cfg (s : State) : (startCommand s).cfg = s.cfg := rfl
@[simp] theorem startCommand_pending (s : State) : (startCommand s).pending = s.pending := rfl
@[simp] theorem startCommand_free (s : State) : (startCommand s).free = s.free := rfl
@[simp] theorem startCommand_inst (s : State) : (startCommand s).inst = s.inst := rfl
@[simp] theorem startCommand_status (s : State) : (startCommand s).status = s.status := rfl
@[simp] theorem startCommand_result (s : State) : (startCommand s).result = s.result := rfl
@[simp] theorem startCommand_input (s : State) : (startCommand s).input = s.input := rfl
@[simp] theorem startCommand_ip (s : State) : (startCommand s).ip = s.ip := rfl
@[simp] theorem startCommand_out (s : State) : (startCommand s).out = [] := rfl
@[simp] theorem startCommand_maxLen (s : State) : (startCommand s).maxLen = s.maxLen := rfl
@[simp] theorem startCommand_work (s : State) : (startCommand s).work = Work.initial := rfl

/-! ## startData -/

@[simp] theorem startData_cfg (i : Bytes) (l : Option Int) (s : State) : (startData i l s).cfg = s.cfg := rfl
@[simp] theorem startData_pending (i : Bytes) (l : Option Int) (s : State) : (startData i l s).pending = s.pending := rfl
@[simp] theorem startData_free (i : Bytes) (l : Option Int) (s : State) : (startData i l s).free = s.free := rfl
@[simp] theorem startData_inst (i : Bytes) (l : Option Int) (s : State) : (startData i l s).inst = s.inst := rfl
@[simp] theorem startData_status (i : Bytes) (l : Option Int) (s : State) : (startData i l s).status = s.status := rfl
@[simp] theorem startData_result (i : Bytes) (l : Option Int) (s : State) : (startData i l s).result = s.result := rfl
@[simp] theorem startData_input (i : Bytes) (l : Option Int) (s : State) : (startData i l s).input = i := rfl
@[simp] theorem startData_ip (i : Bytes) (l : Option Int) (s : State) : (startData i l s).ip = 0 := rfl
@[simp] theorem startData_out (i : Bytes) (l : Option Int) (s : State) : (startData i l s).out = [] := rfl
@[simp] theorem startData_maxLen (i : Bytes) (l : Option Int) (s : State) : (startData i l s).maxLen = l.getD s.maxLen := rfl
@[simp] theorem startData_work (i : Bytes) (l : Option Int) (s : State) : (startData i l s).work = Work.initial := rfl

/-! ## endOk -/

@[simp] theorem endOk_cfg (s : State) : (endOk s).cfg = s.cfg := rfl
@[simp] theorem endOk_pending (s : State) : (endOk s).pending = s.pending := rfl
@[simp] theorem endOk_free (s : State) : (endOk s).free = s.free + 1 := rfl
@[simp] theorem endOk_inst (s : State) : (endOk s).inst = s.inst := rfl
@[simp] theorem endOk_status (s : State) : (endOk s).status = .ok := rfl
@[simp] theorem endOk_result (s : State) : (endOk s).result = Config.freeResult s.free := rfl
@[simp] theorem endOk_input (s : State) : (endOk s).input = s.input := rfl
@[simp] theorem endOk_ip (s : State) : (endOk s).ip = s.ip := rfl
@[simp] theorem endOk_out (s : State) : (endOk s).out = s.out := rfl
@[simp] theorem endOk_maxLen (s : State) : (endOk s).maxLen = s.maxLen := rfl
@[simp] theorem endOk_work (s : State) : (endOk s).work = s.work := rfl

/-! ## endQuery -/

@[simp] theorem endQuery_cfg (r : RegResult) (s : State) : (endQuery r s).cfg = s.cfg := rfl
@[simp] theorem endQuery_pending (r : RegResult) (s : State) : (endQuery r s).pending = s.pending := rfl
@[simp] theorem endQuery_free (r : RegResult) (s : State) : (endQuery r s).free = s.free := rfl
@[simp] theorem endQuery_inst (r : RegResult) (s : State) : (endQuery r s).inst = s.inst := rfl
@[simp] theorem endQuery_status (r : RegResult) (s : State) : (endQuery r s).status = .ok := rfl
@[simp] theorem endQuery_result (r : RegResult) (s : State) : (endQuery r s).result = r := rfl
@[simp] theorem endQuery_input (r : RegResult) (s : State) : (endQuery r s).input = s.input := rfl
@[simp] theorem endQuery_ip (r : RegResult) (s : State) : (endQuery r s).ip = s.ip := rfl
@[simp] theorem endQuery_out (r : RegResult) (s : State) : (endQuery r s).out = s.out := rfl
@[simp] theorem endQuery_maxLen (r : RegResult) (s : State) : (endQuery r s).maxLen = s.maxLen := rfl
@[simp] theorem endQuery_work (r : RegResult) (s : State) : (endQuery r s).work = s.work := rfl

/-! ## endError -/

@[simp] theorem endError_cfg (e : EngineError) (s : State) : (endError e s).cfg = s.cfg := rfl
@[simp] theorem endError_pending (e : EngineError) (s : State) : (endError e s).pending = s.pending := rfl
@[simp] theorem endError_free (e : EngineError) (s : State) : (endError e s).free = s.free + 1 := rfl
@[simp] theorem endError_inst (e : EngineError) (s : State) : (endError e s).inst = s.inst := rfl
@[simp] theorem endError_status (e : EngineError) (s : State) : (endError e s).status = .error e := rfl
@[simp] theorem endError_result (e : EngineError) (s : State) : (endError e s).result = Config.freeResult s.free := rfl
@[simp] theorem endError_input (e : EngineError) (s : State) : (endError e s).input = s.input := rfl
@[simp] theorem endError_ip (e : EngineError) (s : State) : (endError e s).ip = Config.freeIp s.free := rfl
@[simp] theorem endError_out (e : EngineError) (s : State) : (endError e s).out = [] := rfl
@[simp] theorem endError_maxLen (e : EngineError) (s : State) : (endError e s).maxLen = Config.freeMaxLen s.free := rfl
@[simp] theorem endError_work (e : EngineError) (s : State) : (endError e s).work = Config.freeWork s.free := rfl

/-! ## endRefusal -/

@[simp] theorem endRefusal_cfg (r : EngineRefusal) (s : State) : (endRefusal r s).cfg = s.cfg := rfl
@[simp] theorem endRefusal_pending (r : EngineRefusal) (s : State) : (endRefusal r s).pending = s.pending := rfl
@[simp] theorem endRefusal_free (r : EngineRefusal) (s : State) : (endRefusal r s).free = s.free + 1 := rfl
@[simp] theorem endRefusal_inst (r : EngineRefusal) (s : State) : (endRefusal r s).inst = s.inst := rfl
@[simp] theorem endRefusal_status (r : EngineRefusal) (s : State) : (endRefusal r s).status = .refusal r := rfl
@[simp] theorem endRefusal_result (r : EngineRefusal) (s : State) : (endRefusal r s).result = Config.freeResult s.free := rfl
@[simp] theorem endRefusal_input (r : EngineRefusal) (s : State) : (endRefusal r s).input = s.input := rfl
@[simp] theorem endRefusal_ip (r : EngineRefusal) (s : State) : (endRefusal r s).ip = s.ip := rfl
@[simp] theorem endRefusal_out (r : EngineRefusal) (s : State) : (endRefusal r s).out = [] := rfl
@[simp] theorem endRefusal_maxLen (r : EngineRefusal) (s : State) : (endRefusal r s).maxLen = s.maxLen := rfl
@[simp] theorem endRefusal_work (r : EngineRefusal) (s : State) : (endRefusal r s).work = s.work := rfl

/-! ## setHi -/

@[simp] theorem setHi_cfg (h : Option (BitVec 4)) (s : State) : (setHi h s).cfg = s.cfg := rfl
@[simp] theorem setHi_pending (h : Option (BitVec 4)) (s : State) : (setHi h s).pending = s.pending := rfl
@[simp] theorem setHi_free (h : Option (BitVec 4)) (s : State) : (setHi h s).free = s.free := rfl
@[simp] theorem setHi_inst (h : Option (BitVec 4)) (s : State) : (setHi h s).inst = s.inst := rfl
@[simp] theorem setHi_status (h : Option (BitVec 4)) (s : State) : (setHi h s).status = s.status := rfl
@[simp] theorem setHi_result (h : Option (BitVec 4)) (s : State) : (setHi h s).result = s.result := rfl
@[simp] theorem setHi_input (h : Option (BitVec 4)) (s : State) : (setHi h s).input = s.input := rfl
@[simp] theorem setHi_ip (h : Option (BitVec 4)) (s : State) : (setHi h s).ip = s.ip := rfl
@[simp] theorem setHi_out (h : Option (BitVec 4)) (s : State) : (setHi h s).out = s.out := rfl
@[simp] theorem setHi_maxLen (h : Option (BitVec 4)) (s : State) : (setHi h s).maxLen = s.maxLen := rfl
@[simp] theorem setHi_work (h : Option (BitVec 4)) (s : State) : (setHi h s).work = { s.work with hi := h } := rfl

/-! ## setGroup -/

@[simp] theorem setGroup_cfg (g : List Nat) (s : State) : (setGroup g s).cfg = s.cfg := rfl
@[simp] theorem setGroup_pending (g : List Nat) (s : State) : (setGroup g s).pending = s.pending := rfl
@[simp] theorem setGroup_free (g : List Nat) (s : State) : (setGroup g s).free = s.free := rfl
@[simp] theorem setGroup_inst (g : List Nat) (s : State) : (setGroup g s).inst = s.inst := rfl
@[simp] theorem setGroup_status (g : List Nat) (s : State) : (setGroup g s).status = s.status := rfl
@[simp] theorem setGroup_result (g : List Nat) (s : State) : (setGroup g s).result = s.result := rfl
@[simp] theorem setGroup_input (g : List Nat) (s : State) : (setGroup g s).input = s.input := rfl
@[simp] theorem setGroup_ip (g : List Nat) (s : State) : (setGroup g s).ip = s.ip := rfl
@[simp] theorem setGroup_out (g : List Nat) (s : State) : (setGroup g s).out = s.out := rfl
@[simp] theorem setGroup_maxLen (g : List Nat) (s : State) : (setGroup g s).maxLen = s.maxLen := rfl
@[simp] theorem setGroup_work (g : List Nat) (s : State) : (setGroup g s).work = { s.work with group := g } := rfl

/-! ## setMatch -/

@[simp] theorem setMatch_cfg (w : Bytes) (s : State) : (setMatch w s).cfg = s.cfg := rfl
@[simp] theorem setMatch_pending (w : Bytes) (s : State) : (setMatch w s).pending = s.pending := rfl
@[simp] theorem setMatch_free (w : Bytes) (s : State) : (setMatch w s).free = s.free := rfl
@[simp] theorem setMatch_inst (w : Bytes) (s : State) : (setMatch w s).inst = s.inst := rfl
@[simp] theorem setMatch_status (w : Bytes) (s : State) : (setMatch w s).status = s.status := rfl
@[simp] theorem setMatch_result (w : Bytes) (s : State) : (setMatch w s).result = s.result := rfl
@[simp] theorem setMatch_input (w : Bytes) (s : State) : (setMatch w s).input = s.input := rfl
@[simp] theorem setMatch_ip (w : Bytes) (s : State) : (setMatch w s).ip = s.ip := rfl
@[simp] theorem setMatch_out (w : Bytes) (s : State) : (setMatch w s).out = s.out := rfl
@[simp] theorem setMatch_maxLen (w : Bytes) (s : State) : (setMatch w s).maxLen = s.maxLen := rfl
@[simp] theorem setMatch_work (w : Bytes) (s : State) : (setMatch w s).work = { s.work with encMatch := w } := rfl

/-! ## insertKey -/

@[simp] theorem insertKey_cfg (w : Bytes) (s : State) : (insertKey w s).cfg = s.cfg := rfl
@[simp] theorem insertKey_pending (w : Bytes) (s : State) : (insertKey w s).pending = s.pending := rfl
@[simp] theorem insertKey_free (w : Bytes) (s : State) : (insertKey w s).free = s.free := rfl
@[simp] theorem insertKey_inst (w : Bytes) (s : State) : (insertKey w s).inst = s.inst := rfl
@[simp] theorem insertKey_status (w : Bytes) (s : State) : (insertKey w s).status = s.status := rfl
@[simp] theorem insertKey_result (w : Bytes) (s : State) : (insertKey w s).result = s.result := rfl
@[simp] theorem insertKey_input (w : Bytes) (s : State) : (insertKey w s).input = s.input := rfl
@[simp] theorem insertKey_ip (w : Bytes) (s : State) : (insertKey w s).ip = s.ip := rfl
@[simp] theorem insertKey_out (w : Bytes) (s : State) : (insertKey w s).out = s.out := rfl
@[simp] theorem insertKey_maxLen (w : Bytes) (s : State) : (insertKey w s).maxLen = s.maxLen := rfl
@[simp] theorem insertKey_work (w : Bytes) (s : State) : (insertKey w s).work = { s.work with dict := (w, 257 + s.work.encCount) :: s.work.dict } := rfl

/-! ## startRows -/

@[simp] theorem startRows_cfg (s : State) : (startRows s).cfg = s.cfg := rfl
@[simp] theorem startRows_pending (s : State) : (startRows s).pending = s.pending := rfl
@[simp] theorem startRows_free (s : State) : (startRows s).free = s.free := rfl
@[simp] theorem startRows_inst (s : State) : (startRows s).inst = s.inst := rfl
@[simp] theorem startRows_status (s : State) : (startRows s).status = s.status := rfl
@[simp] theorem startRows_result (s : State) : (startRows s).result = s.result := rfl
@[simp] theorem startRows_input (s : State) : (startRows s).input = s.input := rfl
@[simp] theorem startRows_ip (s : State) : (startRows s).ip = s.ip := rfl
@[simp] theorem startRows_out (s : State) : (startRows s).out = s.out := rfl
@[simp] theorem startRows_maxLen (s : State) : (startRows s).maxLen = s.maxLen := rfl
@[simp] theorem startRows_work (s : State) : (startRows s).work = { s.work with rowIndex := 0 } := rfl

/-! ## startChunks -/

@[simp] theorem startChunks_cfg (s : State) : (startChunks s).cfg = s.cfg := rfl
@[simp] theorem startChunks_pending (s : State) : (startChunks s).pending = s.pending := rfl
@[simp] theorem startChunks_free (s : State) : (startChunks s).free = s.free := rfl
@[simp] theorem startChunks_inst (s : State) : (startChunks s).inst = s.inst := rfl
@[simp] theorem startChunks_status (s : State) : (startChunks s).status = s.status := rfl
@[simp] theorem startChunks_result (s : State) : (startChunks s).result = s.result := rfl
@[simp] theorem startChunks_input (s : State) : (startChunks s).input = s.input := rfl
@[simp] theorem startChunks_ip (s : State) : (startChunks s).ip = s.ip := rfl
@[simp] theorem startChunks_out (s : State) : (startChunks s).out = s.out := rfl
@[simp] theorem startChunks_maxLen (s : State) : (startChunks s).maxLen = s.maxLen := rfl
@[simp] theorem startChunks_work (s : State) : (startChunks s).work = { s.work with prevRow := none } := rfl

/-! ## putBits -/

@[simp] theorem putBits_cfg (b : List Bool) (s : State) : (putBits b s).cfg = s.cfg := rfl
@[simp] theorem putBits_pending (b : List Bool) (s : State) : (putBits b s).pending = s.pending := rfl
@[simp] theorem putBits_free (b : List Bool) (s : State) : (putBits b s).free = s.free := rfl
@[simp] theorem putBits_inst (b : List Bool) (s : State) : (putBits b s).inst = s.inst := rfl
@[simp] theorem putBits_status (b : List Bool) (s : State) : (putBits b s).status = s.status := rfl
@[simp] theorem putBits_result (b : List Bool) (s : State) : (putBits b s).result = s.result := rfl
@[simp] theorem putBits_input (b : List Bool) (s : State) : (putBits b s).input = s.input := rfl
@[simp] theorem putBits_ip (b : List Bool) (s : State) : (putBits b s).ip = s.ip := rfl
@[simp] theorem putBits_out (b : List Bool) (s : State) : (putBits b s).out = s.out ++ wholeBytes (s.work.bitbuf ++ b) := rfl
@[simp] theorem putBits_maxLen (b : List Bool) (s : State) : (putBits b s).maxLen = s.maxLen := rfl
@[simp] theorem putBits_work (b : List Bool) (s : State) : (putBits b s).work = { s.work with bitbuf := bitsLeft (s.work.bitbuf ++ b) } := rfl

/-! ## applyReset -/

@[simp] theorem applyReset_cfg (s : State) : (applyReset s).cfg = s.cfg := rfl
@[simp] theorem applyReset_pending (s : State) : (applyReset s).pending = s.pending := rfl
@[simp] theorem applyReset_free (s : State) : (applyReset s).free = s.free := rfl
@[simp] theorem applyReset_inst (s : State) : (applyReset s).inst = Inst.cleared := rfl
@[simp] theorem applyReset_status (s : State) : (applyReset s).status = .ok := rfl
@[simp] theorem applyReset_result (s : State) : (applyReset s).result = .names [] := rfl
@[simp] theorem applyReset_input (s : State) : (applyReset s).input = [] := rfl
@[simp] theorem applyReset_ip (s : State) : (applyReset s).ip = 0 := rfl
@[simp] theorem applyReset_out (s : State) : (applyReset s).out = [] := rfl
@[simp] theorem applyReset_maxLen (s : State) : (applyReset s).maxLen = 0 := rfl
@[simp] theorem applyReset_work (s : State) : (applyReset s).work = Work.initial := rfl

/-! ## withCommand -/

@[simp] theorem withCommand_cfg (c : Command) (s : State) : (withCommand c s).cfg = s.cfg := rfl
@[simp] theorem withCommand_pending (c : Command) (s : State) : (withCommand c s).pending = [.command c] := rfl
@[simp] theorem withCommand_free (c : Command) (s : State) : (withCommand c s).free = s.free := rfl
@[simp] theorem withCommand_inst (c : Command) (s : State) : (withCommand c s).inst = s.inst := rfl
@[simp] theorem withCommand_status (c : Command) (s : State) : (withCommand c s).status = s.status := rfl
@[simp] theorem withCommand_result (c : Command) (s : State) : (withCommand c s).result = s.result := rfl
@[simp] theorem withCommand_input (c : Command) (s : State) : (withCommand c s).input = s.input := rfl
@[simp] theorem withCommand_ip (c : Command) (s : State) : (withCommand c s).ip = s.ip := rfl
@[simp] theorem withCommand_out (c : Command) (s : State) : (withCommand c s).out = s.out := rfl
@[simp] theorem withCommand_maxLen (c : Command) (s : State) : (withCommand c s).maxLen = s.maxLen := rfl
@[simp] theorem withCommand_work (c : Command) (s : State) : (withCommand c s).work = s.work := rfl

/-! ## errors and refusals -/


/-! ## lzwEmit writes OUT or RAW and nothing else -/

theorem lzwEmit_out (l : Bytes) (s : State) :
    (lzwEmit l s).out = if parm s.inst .predictor = 1 then s.out ++ l else s.out := by
  unfold lzwEmit; split <;> rfl
theorem lzwEmit_work (l : Bytes) (s : State) :
    (lzwEmit l s).work = if parm s.inst .predictor = 1 then s.work else { s.work with raw := s.work.raw ++ l } := by
  unfold lzwEmit; split <;> rfl
@[simp] theorem lzwEmit_cfg (l : Bytes) (s : State) : (lzwEmit l s).cfg = s.cfg := by
  unfold lzwEmit; split <;> rfl
@[simp] theorem lzwEmit_pending (l : Bytes) (s : State) : (lzwEmit l s).pending = s.pending := by
  unfold lzwEmit; split <;> rfl
@[simp] theorem lzwEmit_free (l : Bytes) (s : State) : (lzwEmit l s).free = s.free := by
  unfold lzwEmit; split <;> rfl
@[simp] theorem lzwEmit_inst (l : Bytes) (s : State) : (lzwEmit l s).inst = s.inst := by
  unfold lzwEmit; split <;> rfl
@[simp] theorem lzwEmit_status (l : Bytes) (s : State) : (lzwEmit l s).status = s.status := by
  unfold lzwEmit; split <;> rfl
@[simp] theorem lzwEmit_result (l : Bytes) (s : State) : (lzwEmit l s).result = s.result := by
  unfold lzwEmit; split <;> rfl
@[simp] theorem lzwEmit_input (l : Bytes) (s : State) : (lzwEmit l s).input = s.input := by
  unfold lzwEmit; split <;> rfl
@[simp] theorem lzwEmit_ip (l : Bytes) (s : State) : (lzwEmit l s).ip = s.ip := by
  unfold lzwEmit; split <;> rfl
@[simp] theorem lzwEmit_maxLen (l : Bytes) (s : State) : (lzwEmit l s).maxLen = s.maxLen := by
  unfold lzwEmit; split <;> rfl

end Sys2Proof.Machine
end

