-- ==== Sys2Proof/Laws/Ops.lean ====
section
/-! SUPPORT. For each shared operation, what it can do: the lemmas that proofs cite instead of unfolding it. -/

namespace Sys2Proof.Machine

/-! ## Reads -/

theorem memRead_eq_some {l : Bytes} {a n : Nat} {x : Bytes} :
    memRead l a n = some x ↔ a + n ≤ l.length ∧ x = (l.drop a).take n := by
  unfold memRead; split <;> simp_all [eq_comm]

theorem memRead_eq_none {l : Bytes} {a n : Nat} : memRead l a n = none ↔ l.length < a + n := by
  unfold memRead; split <;> simp_all

theorem memRead_length {l : Bytes} {a n : Nat} {x : Bytes} (h : memRead l a n = some x) : x.length = n := by
  obtain ⟨h1, rfl⟩ := memRead_eq_some.1 h
  simp; omega

theorem inByte_eq_some {s t : State} {b : Byte} :
    inByte s = some (b, t) ↔ s.input[s.ip]? = some b ∧ t = { s with ip := s.ip + 1 } := by
  unfold inByte
  split
  next h => simp [h]
  next b' h => simp only [h, Option.some.injEq, Prod.mk.injEq]; constructor <;> rintro ⟨rfl, rfl⟩ <;> exact ⟨rfl, rfl⟩

theorem inByte_eq_none {s : State} : inByte s = none ↔ s.input.length ≤ s.ip := by
  unfold inByte
  split
  next h => simpa using h
  next b h => simp only [reduceCtorEq, false_iff]; intro hc; simp [List.getElem?_eq_none hc] at h

theorem bitRead_eq_some {l : Bytes} {bp w c : Nat} :
    bitRead l bp w = some c ↔
      bp + w ≤ 8 * l.length ∧ c = bitsToNat ((List.range w).map fun j => bitAt l (bp + j)) := by
  unfold bitRead; split <;> simp_all [eq_comm]

theorem bitRead_eq_none {l : Bytes} {bp w : Nat} : bitRead l bp w = none ↔ 8 * l.length < bp + w := by
  unfold bitRead; split <;> simp_all

/-! ## Bit fields -/

theorem bitsToNat_append_one (l : List Bool) (b : Bool) : bitsToNat (l ++ [b]) = 2 * bitsToNat l + b.toNat := by
  simp [bitsToNat, List.foldl_append]

theorem bitsToNat_lt (l : List Bool) : bitsToNat l < 2 ^ l.length := by
  induction l using List.reverseRecOn with
  | nil => simp [bitsToNat]
  | append_singleton l b ih =>
    rw [bitsToNat_append_one, List.length_append, List.length_singleton, pow_succ]
    cases b <;> simp <;> omega

@[simp] theorem natToBits_length (v w : Nat) : (natToBits v w).length = w := by simp [natToBits]

theorem natToBits_succ (v w : Nat) : natToBits v (w + 1) = natToBits (v / 2) w ++ [v.testBit 0] := by
  unfold natToBits
  rw [List.range_succ, List.map_append]
  congr 1
  · apply List.map_congr_left
    intro j hj
    have hj := List.mem_range.1 hj
    rw [show w + 1 - 1 - j = (w - 1 - j) + 1 by omega, Nat.testBit_succ]
  · simp

theorem bitsToNat_natToBits {v w : Nat} (h : v < 2 ^ w) : bitsToNat (natToBits v w) = v := by
  induction w generalizing v with
  | zero =>
    have : v = 0 := by simpa using h
    subst this; rfl
  | succ w ih =>
    rw [natToBits_succ, bitsToNat_append_one, ih (by rw [pow_succ] at h; omega)]
    rw [Nat.testBit_zero]
    rcases Nat.mod_two_eq_zero_or_one v with h0 | h0 <;> simp [h0] <;> omega

/-- A code read by `BitRead` has as many bits as asked for. -/
theorem bitRead_lt {l : Bytes} {bp w c : Nat} (h : bitRead l bp w = some c) : c < 2 ^ w := by
  obtain ⟨-, rfl⟩ := bitRead_eq_some.1 h
  simpa using bitsToNat_lt ((List.range w).map fun j => bitAt l (bp + j))

theorem wholeBytes_length (bits : List Bool) : (wholeBytes bits).length = bits.length / 8 := by
  induction bits using wholeBytes.induct with
  | case1 b7 b6 b5 b4 b3 b2 b1 b0 rest ih => simp [wholeBytes, ih]; omega
  | case2 bits h =>
    have hl : bits.length < 8 := by
      by_contra hc
      match bits, h with
      | b7 :: b6 :: b5 :: b4 :: b3 :: b2 :: b1 :: b0 :: rest, h => exact h _ _ _ _ _ _ _ _ _ rfl
      | [], _ | [_], _ | [_, _], _ | [_, _, _], _ | [_, _, _, _], _ | [_, _, _, _, _], _ | [_, _, _, _, _, _], _
      | [_, _, _, _, _, _, _], _ => simp at hc
    rw [wholeBytes]
    · simp; omega
    · exact h

theorem bitsLeft_length (bits : List Bool) : (bitsLeft bits).length = bits.length % 8 := by
  simp [bitsLeft]; omega

/-! ## Start and end of a command -/

theorem checkBufLen_eq_true {len : Nat} {n : Int} : checkBufLen len n = true ↔ n < 0 ∨ (len : Int) < n := by
  simp [checkBufLen]

theorem checkBufLen_neg {len : Nat} {n : Int} (h : n < 0) : checkBufLen len n = true := by
  simp [checkBufLen, h]

@[simp] theorem fitsCapacity_none (len : Nat) : fitsCapacity none len = true := rfl

@[simp] theorem fitsParamBits_neg_one (bits : Option Nat) : fitsParamBits bits (-1) = true := by
  cases bits with
  | none => rfl
  | some b =>
    have h : (0 : Int) < 2 ^ (b - 1) := by positivity
    simp [fitsParamBits]; omega

theorem failsAs_endError (e : EngineError) (s : State) : FailsAs (.error e) s (endError e s) := rfl

theorem failsAs_endRefusal (r : EngineRefusal) (s : State) : FailsAs (.refusal r) s (endRefusal r s) := rfl

theorem endsOkAs_endOk (s : State) : EndsOkAs s (endOk s) := rfl

/-! ## The codec loop -/

/-- One round of the loop. -/
theorem loop_step {limit : Int} {body atEnd : State → Flow} {n : Nat} {s s' : State}
    (hl : checkBufLen s.out.length limit = true) (hb : body s = .more s') :
    loop limit body atEnd (n + 1) s = loop limit body atEnd n s' := by
  simp [loop, hl, hb]

/-- The loop ends where its limit is reached. -/
theorem loop_full {limit : Int} {body atEnd : State → Flow} {n : Nat} {s : State}
    (hl : checkBufLen s.out.length limit = false) : loop limit body atEnd n s = .stop s := by
  cases n <;> simp [loop, hl]

/-- The loop ends as its body does. -/
theorem loop_end {limit : Int} {body atEnd : State → Flow} {n : Nat} {s : State} {f : Flow}
    (hl : checkBufLen s.out.length limit = true) (hb : body s = f) (hf : ∀ s', f ≠ .more s') :
    loop limit body atEnd (n + 1) s = f := by
  subst hb
  simp only [loop, hl, if_true]
  split <;> first | rfl | simp_all

/-- A property that every round keeps holds of whatever the loop ends with. -/
theorem loop_ind {limit : Int} {body atEnd : State → Flow} {P : State → Prop} {Q : Flow → Prop}
    (hstop : ∀ s, P s → checkBufLen s.out.length limit = false → Q (.stop s))
    (hend : ∀ s, P s → Q (atEnd s))
    (hmore : ∀ s s', P s → body s = .more s' → P s')
    (hbody : ∀ s, P s → (∀ s', body s ≠ .more s') → Q (body s)) :
    ∀ (n : Nat) (s : State), P s → Q (loop limit body atEnd n s) := by
  intro n
  induction n with
  | zero =>
    intro s hs
    by_cases hl : checkBufLen s.out.length limit = true
    · simpa [loop, hl] using hend s hs
    · simpa [loop, hl] using hstop s hs (by simpa using hl)
  | succ n ih =>
    intro s hs
    by_cases hl : checkBufLen s.out.length limit = true
    · cases hb : body s with
      | more s' => rw [loop_step hl hb]; exact ih s' (hmore s s' hs hb)
      | stop s' => rw [loop_end hl hb (by simp)]; exact hb ▸ hbody s hs (by simp [hb])
      | raise e s' => rw [loop_end hl hb (by simp)]; exact hb ▸ hbody s hs (by simp [hb])
      | refuse r s' => rw [loop_end hl hb (by simp)]; exact hb ▸ hbody s hs (by simp [hb])
      | exceeds => rw [loop_end hl hb (by simp)]; exact hb ▸ hbody s hs (by simp [hb])
      | stuck => rw [loop_end hl hb (by simp)]; exact hb ▸ hbody s hs (by simp [hb])
    · rw [loop_full (by simpa using hl)]; exact hstop s hs (by simpa using hl)

/-- A loop whose measure falls in every round ends before its rounds are used up. -/
theorem loop_ends {limit : Int} {body : State → Flow} {P : State → Prop} (m : State → Nat)
    (hmore : ∀ s s', P s → body s = .more s' → P s' ∧ m s' < m s) :
    ∀ (n : Nat) (s : State), P s → m s < n → ∀ s', loop limit body Flow.more n s ≠ .more s' := by
  intro n
  induction n with
  | zero => intro s _ h; omega
  | succ n ih =>
    intro s hs hn s'
    by_cases hl : checkBufLen s.out.length limit = true
    · cases hb : body s with
      | more t =>
        rw [loop_step hl hb]
        obtain ⟨h1, h2⟩ := hmore s t hs hb
        exact ih t h1 (by omega) s'
      | stop t => rw [loop_end hl hb (by simp)]; simp
      | raise e t => rw [loop_end hl hb (by simp)]; simp
      | refuse r t => rw [loop_end hl hb (by simp)]; simp
      | exceeds => rw [loop_end hl hb (by simp)]; simp
      | stuck => rw [loop_end hl hb (by simp)]; simp
    · rw [loop_full (by simpa using hl)]; simp

/-! ## Outcomes -/

/-- Everything a symbol can come to. -/
theorem settleSymbol_next {f : Flow} {t : State} :
    settleSymbol f = .next t ↔
      f = .more t ∨ (∃ s, f = .stop s ∧ fitsCapacity s.cfg.maxOut s.out.length = true ∧ t = endOk s) ∨
        (∃ e s, f = .raise e s ∧ t = endError e s) ∨ (∃ r s, f = .refuse r s ∧ t = endRefusal r s) := by
  cases f with
  | more s => simp [settleSymbol]
  | stop s =>
    by_cases h : fitsCapacity s.cfg.maxOut s.out.length = true
    · simp only [settleSymbol, h, if_true, Host.Outcome.next.injEq]
      constructor
      · rintro rfl; exact .inr (.inl ⟨s, rfl, h, rfl⟩)
      · rintro (h' | ⟨s', h', -, rfl⟩ | ⟨e, s', h', -⟩ | ⟨r, s', h', -⟩) <;> simp_all
    · simp only [settleSymbol, h]
      simp only [Bool.false_eq_true, if_false, reduceCtorEq, false_iff]
      rintro (h' | ⟨s', h', h2, rfl⟩ | ⟨e, s', h', -⟩ | ⟨r, s', h', -⟩) <;> simp_all
  | raise e s => simp only [settleSymbol]; constructor <;> [(intro h; simp_all); (rintro (h | h | h | h) <;> simp_all)]
  | refuse r s => simp only [settleSymbol]; constructor <;> [(intro h; simp_all); (rintro (h | h | h | h) <;> simp_all)]
  | exceeds => simp [settleSymbol]
  | stuck => simp [settleSymbol]

/-- A command comes to what its last symbol comes to. -/
theorem settleCommand_eq {f : Flow} (h : ∀ s, f ≠ .more s) : settleCommand f = settleSymbol f := by
  cases f <;> first | rfl | exact absurd rfl (h _)

/-- Everything a command can come to. -/
theorem settleCommand_next {f : Flow} {t : State} :
    settleCommand f = .next t ↔
      (∃ s, f = .stop s ∧ fitsCapacity s.cfg.maxOut s.out.length = true ∧ t = endOk s) ∨
        (∃ e s, f = .raise e s ∧ t = endError e s) ∨ (∃ r s, f = .refuse r s ∧ t = endRefusal r s) := by
  cases f with
  | more s => simp [settleCommand]
  | stop s => simp [settleCommand, settleSymbol_next]
  | raise e s => simp [settleCommand, settleSymbol_next]
  | refuse r s => simp [settleCommand, settleSymbol_next]
  | exceeds => simp [settleCommand, settleSymbol_next]
  | stuck => simp [settleCommand, settleSymbol_next]

/-- A data command on an engine that is ready for it runs its codec. -/
theorem dataCommand_run {input : Bytes} {limit : Option Int} {body : State → Flow} {s : State}
    (h1 : fitsCapacity s.cfg.maxIn input.length = true) (h2 : limit.all (fitsParamBits s.cfg.paramBits) = true)
    (h3 : s.inst.valid = true) :
    dataCommand input limit body s = settleCommand (body (startData input limit s)) := by
  simp [dataCommand, h1, h2, h3]

/-- Everything a data command can come to. -/
theorem dataCommand_next {input : Bytes} {limit : Option Int} {body : State → Flow} {s t : State}
    (h : dataCommand input limit body s = .next t) :
    t = endRefusal .badCommand s ∨ t = endRefusal .noInstance s ∨
      (s.inst.valid = true ∧ settleCommand (body (startData input limit s)) = .next t) := by
  unfold dataCommand at h
  split at h
  · simp at h
  · split at h
    · left; simpa [eq_comm] using h
    · split at h
      · right; left; simpa [eq_comm] using h
      · right; right; exact ⟨by simp_all, h⟩

/-! ## The bounded decode -/

/-- What BOUNDED_STOP lists for a case is its choice. -/
theorem chosenStop_listed (known : List (StopCase × Option Nat)) (c : StopCase) (choice : Option Nat) :
    chosenStop ((c, choice) :: known) c = choice := by
  simp [chosenStop]

/-- A negative limit decodes everything. -/
theorem boundedDecode_neg {k : Kind} {full : State → Flow} {lazy : Int → State → Flow} {s : State} (h : s.maxLen < 0) :
    boundedDecode k full lazy s = full s := by
  simp [boundedDecode, h]

/-- A limit from 0 on ends as BOUNDED_STOP says. -/
theorem boundedDecode_nonneg {k : Kind} {full : State → Flow} {lazy : Int → State → Flow} {s : State} (h : 0 ≤ s.maxLen) :
    (s.cfg.boundedStop = .exact ∧ boundedDecode k full lazy s = cutExact s.maxLen.toNat (full s)) ∨
      (s.cfg.boundedStop = .lazy ∧ boundedDecode k full lazy s = lazy s.maxLen s) ∨
        ∃ known, s.cfg.boundedStop = .choose known ∧
          boundedDecode k full lazy s = cutChosen s.maxLen.toNat (chosenStop known (stopCase k s)) (lazy (-1) s) := by
  rw [boundedDecode, if_neg (Int.not_lt.2 h)]
  cases s.cfg.boundedStop with
  | exact => exact .inl ⟨rfl, rfl⟩
  | lazy => exact .inr (.inl ⟨rfl, rfl⟩)
  | choose known => exact .inr (.inr ⟨known, rfl, rfl⟩)

/-- Everything a chosen end can come to, for a trace that ends `ok`: an opening part, no shorter than R243 asks for. -/
theorem cutChosen_stop (n : Nat) (c : Option Nat) (s : State) :
    ∃ p, cutChosen n c (.stop s) = .stop { s with out := p } ∧ p <+: s.out ∧ min n s.out.length ≤ p.length := by
  refine ⟨_, rfl, List.take_prefix _ _, ?_⟩
  rw [List.length_take]; omega

/-- Everything a chosen end can come to, for a trace that ends in an error: the error, or, where it may be hidden, an opening
part of at least `n` bytes. -/
theorem cutChosen_raise (n : Nat) (c : Option Nat) (e : EngineError) (s : State) :
    cutChosen n c (.raise e s) = .raise e s ∨
      (alwaysReported e = false ∧
        ∃ p, cutChosen n c (.raise e s) = .stop { s with out := p } ∧ p <+: s.out ∧ n ≤ p.length) := by
  cases c with
  | none => exact .inl rfl
  | some l =>
    by_cases h : alwaysReported e = false ∧ n ≤ s.out.length
    · refine .inr ⟨h.1, _, if_pos h, List.take_prefix _ _, ?_⟩
      rw [List.length_take]; omega
    · exact .inl (if_neg h)

/-- Every opening part that R243 allows is chosen for a trace that ends `ok`. -/
theorem cutChosen_stop_reaches {n : Nat} {s : State} {p : Bytes} (hp : p <+: s.out) (hn : min n s.out.length ≤ p.length) :
    cutChosen n (some p.length) (.stop s) = .stop { s with out := p } := by
  have hl := hp.length_le
  have : s.out.take (max n p.length) = p := by
    by_cases h : n ≤ p.length
    · rw [Nat.max_eq_right h, ← List.prefix_iff_eq_take.1 hp]
    · rw [List.take_of_length_le (by omega)]
      exact (hp.eq_of_length (by omega)).symm
  simp [cutChosen, this]

/-- Every opening part that R243 allows is chosen for a trace that ends in an error that may be hidden. -/
theorem cutChosen_raise_reaches {n : Nat} {e : EngineError} {s : State} {p : Bytes} (he : alwaysReported e = false)
    (hp : p <+: s.out) (hn : n ≤ p.length) :
    cutChosen n (some p.length) (.raise e s) = .stop { s with out := p } := by
  have hl := hp.length_le
  have : s.out.take (max n p.length) = p := by
    rw [Nat.max_eq_right hn, ← List.prefix_iff_eq_take.1 hp]
  simp [cutChosen, this, he, Nat.le_trans hn hl]

/-! ## NEWFILTER -/

/-- Everything NEWFILTER of a native name can come to. -/
theorem newNative_next {k : Kind} {parms : Option ParmMap} {s t : State} (h : newNative k parms s = .next t) :
    (parmsFit s.cfg.paramBits parms = false ∧ t = endRefusal .badCommand s) ∨
      (parmsFit s.cfg.paramBits parms = true ∧
        t = endOk { startCommand s with inst := constructInst k parms s.inst }) := by
  unfold newNative at h
  split at h
  · simp at h
  · split at h
    · left; exact ⟨by simp_all, by simpa [eq_comm] using h⟩
    · right; exact ⟨by simp_all, by simpa [eq_comm] using h⟩

/-- Everything NEWFILTER of another name can come to. -/
theorem newUnsupported_next {name : Bytes} {s t : State} (h : newUnsupported name s = .next t) :
    t = endError .unsupportedFilter { s with inst := { s.inst with valid := false } } := by
  unfold newUnsupported at h
  split at h
  · simp at h
  · simpa [eq_comm] using h

/-! ## Rows -/

theorem buildRow_eq (f : Bytes → Byte → Byte) (out raw : Bytes) :
    ∃ row, buildRow f out raw = out ++ row ∧ row.length = raw.length ∧
      ∀ x, x < raw.length → row.getD x 0 = f (out ++ row.take x) (raw.getD x 0) := by
  induction raw generalizing out with
  | nil => exact ⟨[], by simp [buildRow], rfl, by simp⟩
  | cons r rest ih =>
    obtain ⟨row, h1, h2, h3⟩ := ih (out ++ [f out r])
    refine ⟨f out r :: row, by simp [buildRow, h1], by simp [h2], ?_⟩
    intro x hx
    cases x with
    | zero => simp
    | succ x =>
      have := h3 x (by simpa using hx)
      simpa using this

/-- A rebuilt row, byte by byte. -/
theorem buildRow_spec (f : Bytes → Byte → Byte) (raw : Bytes) :
    (buildRow f [] raw).length = raw.length ∧
      ∀ x, x < raw.length →
        (buildRow f [] raw).getD x 0 = f ((buildRow f [] raw).take x) (raw.getD x 0) := by
  obtain ⟨row, h1, h2, h3⟩ := buildRow_eq f [] raw
  simp only [List.nil_append] at h1 h3
  rw [h1]
  exact ⟨h2, h3⟩

end Sys2Proof.Machine
end

