-- ==== Sys2Proof/Laws/PerInstr.lean ====
section
/-! SUPPORT. The row of each instruction: the encoding of a well-formed instruction is one that its row of
spec/opcode_table.json accepts, by the row's match and mask, range, set or value. -/

namespace Sys2Proof.Laws

/-- The byte agrees with a row's match under its mask. -/
def maskedIs (mask value b : Byte) : Bool :=
  decide (b &&& mask = value)

/-- A command whose byte agrees with a match and mask. -/
def commandIs (mask value : Byte) : Encoded → Bool
  | .command c => maskedIs mask value c.cmd
  | _ => false

/-- One byte that satisfies a condition. -/
def byteIs (p : Byte → Bool) : Encoded → Bool
  | .bytes [b] => p b
  | _ => false

/-- A code value of at most 12 bits that satisfies a condition. -/
def codeIs (p : Nat → Bool) : Encoded → Bool
  | .code c => decide (c < 4096) && p c
  | _ => false

/-- A Predictor value that satisfies a condition. -/
def valueIs (p : Int → Bool) : Encoded → Bool
  | .value v => p v
  | _ => false

/-- The `encoding` column of the instruction's row. -/
def rowAccepts : Instr → Encoded → Bool
  | .newfilterAscii85 _ => commandIs 0xFF 0x00
  | .newfilterAsciihex _ => commandIs 0xFF 0x01
  | .newfilterRunlength _ => commandIs 0xFF 0x02
  | .newfilterLzw _ => commandIs 0xFF 0x03
  | .newfilterFlate _ => commandIs 0xFF 0x04
  | .newfilterCcittfax _ => commandIs 0xFF 0x05
  | .newfilterJbig2 _ => commandIs 0xFF 0x06
  | .newfilterDct _ => commandIs 0xFF 0x07
  | .newfilterJpx _ => commandIs 0xFF 0x08
  | .newfilterUnknown _ _ => commandIs 0xFF 0x0F
  | .encodeAscii85 _ => commandIs 0xFF 0x10
  | .encodeAsciihex _ => commandIs 0xFF 0x10
  | .encodeRunlength _ => commandIs 0xFF 0x10
  | .encodeLzw _ => commandIs 0xFF 0x10
  | .encodeFlate _ => commandIs 0xFF 0x10
  | .decodeAscii85 _ => commandIs 0xFF 0x20
  | .decodeAsciihex _ => commandIs 0xFF 0x20
  | .decodeRunlength _ => commandIs 0xFF 0x20
  | .decodeLzw _ => commandIs 0xFF 0x20
  | .decodeFlate _ => commandIs 0xFF 0x20
  | .decodelenAscii85 _ _ => commandIs 0xFF 0x30
  | .decodelenAsciihex _ _ => commandIs 0xFF 0x30
  | .decodelenRunlength _ _ => commandIs 0xFF 0x30
  | .decodelenLzw _ _ => commandIs 0xFF 0x30
  | .decodelenFlate _ _ => commandIs 0xFF 0x30
  | .list => commandIs 0xFF 0x40
  | .supports _ => commandIs 0xF0 0x50
  | .reservedOp6_7 _ _ => commandIs 0xE0 0x60
  | .reservedOp8_15 _ _ => commandIs 0x80 0x80
  | .reservedFidNonzero _ _ =>
    fun e => match e with | .command c => decide (1 ≤ c.cmd.toNat / 16 ∧ c.cmd.toNat / 16 ≤ 4 ∧ c.cmd.toNat % 16 ≠ 0) | _ => false
  | .reservedFid9_14 _ _ =>
    fun e => match e with | .command c => decide ((c.cmd.toNat / 16 = 0 ∨ c.cmd.toNat / 16 = 5) ∧ 9 ≤ c.cmd.toNat % 16 ∧ c.cmd.toNat % 16 ≤ 14) | _ => false
  | .rlLit _ => byteIs (maskedIs 0x80 0x00)
  | .rlEod => byteIs (maskedIs 0xFF 0x80)
  | .rlRep _ => byteIs fun b => maskedIs 0x80 0x80 b && decide (b ≠ 0x80)
  | .pngNone => byteIs (maskedIs 0xFF 0x00)
  | .pngSub => byteIs (maskedIs 0xFF 0x01)
  | .pngUp => byteIs (maskedIs 0xFF 0x02)
  | .pngAvg => byteIs (maskedIs 0xFF 0x03)
  | .pngPaeth => byteIs (maskedIs 0xFF 0x04)
  | .pngIllegal _ => byteIs fun b => decide (5 ≤ b)
  | .tiffHdiff => fun e => decide (e = .untagged)
  | .predNone => valueIs fun v => decide (v = 1)
  | .predTiff => valueIs fun v => decide (v = 2)
  | .predPng10 => valueIs fun v => decide (v = 10)
  | .predPng11 => valueIs fun v => decide (v = 11)
  | .predPng12 => valueIs fun v => decide (v = 12)
  | .predPng13 => valueIs fun v => decide (v = 13)
  | .predPng14 => valueIs fun v => decide (v = 14)
  | .predPng15 => valueIs fun v => decide (v = 15)
  | .predUndefined _ => valueIs fun v => decide (v ∉ ([1, 2, 10, 11, 12, 13, 14, 15] : List Int))
  | .lzwLit _ => codeIs fun c => decide (c ≤ 255)
  | .lzwClear => codeIs fun c => decide (c = 256)
  | .lzwEod => codeIs fun c => decide (c = 257)
  | .lzwRef _ => codeIs fun c => decide (258 ≤ c)
  | .lzwKwkwk _ => codeIs fun c => decide (258 ≤ c)
  | .lzwIllegal _ => codeIs fun c => decide (c ≠ 256 ∧ c ≠ 257)
  | .a85Digit _ => byteIs fun b => decide (0x21 ≤ b ∧ b ≤ 0x75)
  | .a85Z => byteIs (maskedIs 0xFF 0x7A)
  | .a85Eod => fun e => decide (e = .bytes [0x7E, 0x3E])
  | .a85Ws _ => byteIs fun b => decide (b ∈ ([0x00, 0x09, 0x0A, 0x0C, 0x0D, 0x20] : List Byte))
  | .a85Illegal _ =>
    byteIs fun b => decide (b ∉ ([0x00, 0x09, 0x0A, 0x0C, 0x0D, 0x20, 0x7A] : List Byte) ∧ ¬ (0x21 ≤ b ∧ b ≤ 0x75))
  | .hexDigit _ => byteIs fun b => decide ((0x30 ≤ b ∧ b ≤ 0x39) ∨ (0x41 ≤ b ∧ b ≤ 0x46) ∨ (0x61 ≤ b ∧ b ≤ 0x66))
  | .hexEod => byteIs (maskedIs 0xFF 0x3E)
  | .hexWs _ => byteIs fun b => decide (b ∈ ([0x00, 0x09, 0x0A, 0x0C, 0x0D, 0x20] : List Byte))
  | .hexIllegal _ =>
    byteIs fun b => decide (b ∉ ([0x00, 0x09, 0x0A, 0x0C, 0x0D, 0x20, 0x3E] : List Byte) ∧ ¬ ((0x30 ≤ b ∧ b ≤ 0x39) ∨ (0x41 ≤ b ∧ b ≤ 0x46) ∨ (0x61 ≤ b ∧ b ≤ 0x66)))

namespace RowEncoding

/-- The encoding of a well-formed instruction is one its row accepts. -/
def Statement (i : Instr) : Prop :=
  i.wf = true → rowAccepts i (encode i) = true

theorem newfilterAscii85 (parms : Option ParmMap) : Statement (.newfilterAscii85 parms) := by
  intro _; simp [encode, rowAccepts, commandIs, maskedIs, namedCommand]

theorem newfilterAsciihex (parms : Option ParmMap) : Statement (.newfilterAsciihex parms) := by
  intro _; simp [encode, rowAccepts, commandIs, maskedIs, namedCommand]

theorem newfilterRunlength (parms : Option ParmMap) : Statement (.newfilterRunlength parms) := by
  intro _; simp [encode, rowAccepts, commandIs, maskedIs, namedCommand]

theorem newfilterLzw (parms : Option ParmMap) : Statement (.newfilterLzw parms) := by
  intro _; simp [encode, rowAccepts, commandIs, maskedIs, namedCommand]

theorem newfilterFlate (parms : Option ParmMap) : Statement (.newfilterFlate parms) := by
  intro _; simp [encode, rowAccepts, commandIs, maskedIs, namedCommand]

theorem newfilterCcittfax (parms : Option ParmMap) : Statement (.newfilterCcittfax parms) := by
  intro _; simp [encode, rowAccepts, commandIs, maskedIs, namedCommand]

theorem newfilterJbig2 (parms : Option ParmMap) : Statement (.newfilterJbig2 parms) := by
  intro _; simp [encode, rowAccepts, commandIs, maskedIs, namedCommand]

theorem newfilterDct (parms : Option ParmMap) : Statement (.newfilterDct parms) := by
  intro _; simp [encode, rowAccepts, commandIs, maskedIs, namedCommand]

theorem newfilterJpx (parms : Option ParmMap) : Statement (.newfilterJpx parms) := by
  intro _; simp [encode, rowAccepts, commandIs, maskedIs, namedCommand]

theorem newfilterUnknown (name : Bytes) (parms : Option ParmMap) : Statement (.newfilterUnknown name parms) := by
  intro _; simp [encode, rowAccepts, commandIs, maskedIs, namedCommand]

theorem encodeAscii85 (input : Bytes) : Statement (.encodeAscii85 input) := by
  intro _; simp [encode, rowAccepts, commandIs, maskedIs, dataCommandOf]

theorem encodeAsciihex (input : Bytes) : Statement (.encodeAsciihex input) := by
  intro _; simp [encode, rowAccepts, commandIs, maskedIs, dataCommandOf]

theorem encodeRunlength (input : Bytes) : Statement (.encodeRunlength input) := by
  intro _; simp [encode, rowAccepts, commandIs, maskedIs, dataCommandOf]

theorem encodeLzw (input : Bytes) : Statement (.encodeLzw input) := by
  intro _; simp [encode, rowAccepts, commandIs, maskedIs, dataCommandOf]

theorem encodeFlate (input : Bytes) : Statement (.encodeFlate input) := by
  intro _; simp [encode, rowAccepts, commandIs, maskedIs, dataCommandOf]

theorem decodeAscii85 (input : Bytes) : Statement (.decodeAscii85 input) := by
  intro _; simp [encode, rowAccepts, commandIs, maskedIs, dataCommandOf]

theorem decodeAsciihex (input : Bytes) : Statement (.decodeAsciihex input) := by
  intro _; simp [encode, rowAccepts, commandIs, maskedIs, dataCommandOf]

theorem decodeRunlength (input : Bytes) : Statement (.decodeRunlength input) := by
  intro _; simp [encode, rowAccepts, commandIs, maskedIs, dataCommandOf]

theorem decodeLzw (input : Bytes) : Statement (.decodeLzw input) := by
  intro _; simp [encode, rowAccepts, commandIs, maskedIs, dataCommandOf]

theorem decodeFlate (input : Bytes) : Statement (.decodeFlate input) := by
  intro _; simp [encode, rowAccepts, commandIs, maskedIs, dataCommandOf]

theorem decodelenAscii85 (maxLen : Int) (input : Bytes) : Statement (.decodelenAscii85 maxLen input) := by
  intro _; simp [encode, rowAccepts, commandIs, maskedIs, dataCommandOf]

theorem decodelenAsciihex (maxLen : Int) (input : Bytes) : Statement (.decodelenAsciihex maxLen input) := by
  intro _; simp [encode, rowAccepts, commandIs, maskedIs, dataCommandOf]

theorem decodelenRunlength (maxLen : Int) (input : Bytes) : Statement (.decodelenRunlength maxLen input) := by
  intro _; simp [encode, rowAccepts, commandIs, maskedIs, dataCommandOf]

theorem decodelenLzw (maxLen : Int) (input : Bytes) : Statement (.decodelenLzw maxLen input) := by
  intro _; simp [encode, rowAccepts, commandIs, maskedIs, dataCommandOf]

theorem decodelenFlate (maxLen : Int) (input : Bytes) : Statement (.decodelenFlate maxLen input) := by
  intro _; simp [encode, rowAccepts, commandIs, maskedIs, dataCommandOf]

theorem list : Statement (.list) := by
  intro _; simp [encode, rowAccepts, commandIs, maskedIs, namedCommand]

theorem supports (name : Bytes) : Statement (.supports name) := by
  intro _
  have h : ∀ f : BitVec 4, maskedIs 0xF0 0x50 (5#4 ++ f) = true := by decide
  exact h _

theorem reservedOp6_7 (op : BitVec 1) (fid : BitVec 4) : Statement (.reservedOp6_7 op fid) := by
  revert op fid; unfold Statement; decide

theorem reservedOp8_15 (op : BitVec 3) (fid : BitVec 4) : Statement (.reservedOp8_15 op fid) := by
  revert op fid; unfold Statement; decide

theorem reservedFidNonzero (op fid : BitVec 4) : Statement (.reservedFidNonzero op fid) := by
  revert op fid; unfold Statement; decide

theorem reservedFid9_14 (op fid : BitVec 4) : Statement (.reservedFid9_14 op fid) := by
  revert op fid; unfold Statement; decide

theorem rlLit (len : BitVec 7) : Statement (.rlLit len) := by
  intro _; revert len; decide

theorem rlEod : Statement (.rlEod) := by
  intro _; simp [encode, rowAccepts, byteIs, maskedIs]

theorem rlRep (len : BitVec 7) : Statement (.rlRep len) := by
  revert len; unfold Statement; decide

theorem pngNone : Statement (.pngNone) := by
  intro _; simp [encode, rowAccepts, byteIs, maskedIs]

theorem pngSub : Statement (.pngSub) := by
  intro _; simp [encode, rowAccepts, byteIs, maskedIs]

theorem pngUp : Statement (.pngUp) := by
  intro _; simp [encode, rowAccepts, byteIs, maskedIs]

theorem pngAvg : Statement (.pngAvg) := by
  intro _; simp [encode, rowAccepts, byteIs, maskedIs]

theorem pngPaeth : Statement (.pngPaeth) := by
  intro _; simp [encode, rowAccepts, byteIs, maskedIs]

theorem pngIllegal (tag : Byte) : Statement (.pngIllegal tag) := by
  revert tag; unfold Statement; decide

theorem tiffHdiff : Statement (.tiffHdiff) := by
  intro _; simp [encode, rowAccepts]

theorem predNone : Statement (.predNone) := by
  intro _; simp [encode, rowAccepts, valueIs]

theorem predTiff : Statement (.predTiff) := by
  intro _; simp [encode, rowAccepts, valueIs]

theorem predPng10 : Statement (.predPng10) := by
  intro _; simp [encode, rowAccepts, valueIs]

theorem predPng11 : Statement (.predPng11) := by
  intro _; simp [encode, rowAccepts, valueIs]

theorem predPng12 : Statement (.predPng12) := by
  intro _; simp [encode, rowAccepts, valueIs]

theorem predPng13 : Statement (.predPng13) := by
  intro _; simp [encode, rowAccepts, valueIs]

theorem predPng14 : Statement (.predPng14) := by
  intro _; simp [encode, rowAccepts, valueIs]

theorem predPng15 : Statement (.predPng15) := by
  intro _; simp [encode, rowAccepts, valueIs]

theorem predUndefined (value : Int) : Statement (.predUndefined value) := by
  intro h
  simp only [Instr.wf, decide_eq_true_eq] at h
  simp only [encode, rowAccepts, valueIs, decide_eq_true_eq, List.mem_cons, List.not_mem_nil, or_false]
  omega

theorem lzwLit (code : Byte) : Statement (.lzwLit code) := by
  intro _
  have := code.isLt
  simp only [encode, rowAccepts, codeIs, Bool.and_eq_true, decide_eq_true_eq]
  omega

theorem lzwClear : Statement (.lzwClear) := by
  intro _; simp [encode, rowAccepts, codeIs]

theorem lzwEod : Statement (.lzwEod) := by
  intro _; simp [encode, rowAccepts, codeIs]

theorem lzwRef (code : BitVec 12) : Statement (.lzwRef code) := by
  intro h
  have := code.isLt
  simp only [Instr.wf, isTableCode, decide_eq_true_eq] at h
  simp only [encode, rowAccepts, codeIs, Bool.and_eq_true, decide_eq_true_eq]
  omega

theorem lzwKwkwk (code : BitVec 12) : Statement (.lzwKwkwk code) := by
  intro h
  have := code.isLt
  simp only [Instr.wf, isTableCode, decide_eq_true_eq] at h
  simp only [encode, rowAccepts, codeIs, Bool.and_eq_true, decide_eq_true_eq]
  omega

theorem lzwIllegal (code : BitVec 12) : Statement (.lzwIllegal code) := by
  intro h
  have := code.isLt
  simp only [Instr.wf, decide_eq_true_eq] at h
  have h1 : code.toNat ≠ 256 := fun e => h.1 (BitVec.eq_of_toNat_eq e)
  have h2 : code.toNat ≠ 257 := fun e => h.2 (BitVec.eq_of_toNat_eq e)
  simp only [encode, rowAccepts, codeIs, Bool.and_eq_true, decide_eq_true_eq]
  omega

theorem a85Digit (ch : Byte) : Statement (.a85Digit ch) := by
  revert ch; unfold Statement; decide

theorem a85Z : Statement (.a85Z) := by
  intro _; simp [encode, rowAccepts, byteIs, maskedIs]

theorem a85Eod : Statement (.a85Eod) := by
  intro _; simp [encode, rowAccepts]

theorem a85Ws (ch : Byte) : Statement (.a85Ws ch) := by
  revert ch; unfold Statement; decide

theorem a85Illegal (ch : Byte) : Statement (.a85Illegal ch) := by
  revert ch; unfold Statement; decide

theorem hexDigit (ch : Byte) : Statement (.hexDigit ch) := by
  revert ch; unfold Statement; decide

theorem hexEod : Statement (.hexEod) := by
  intro _; simp [encode, rowAccepts, byteIs, maskedIs]

theorem hexWs (ch : Byte) : Statement (.hexWs ch) := by
  revert ch; unfold Statement; decide

theorem hexIllegal (ch : Byte) : Statement (.hexIllegal ch) := by
  revert ch; unfold Statement; decide

end RowEncoding

end Sys2Proof.Laws
end

