-- ==== Sys2Proof/Tests/Slice0.lean ====
section
/-! SUPPORT. The model's own tests. Expected values come from the worked examples of spec/ (rule numbers) and its vectors
(V numbers, 95_test_vectors.md); the witnesses show that the premises of the obligations can be met, at boundary values. -/

namespace Sys2Proof.Tests

open Sys2Proof.Machine Sys2Proof.Streams

/-- STATUS and OUT of a next state. -/
def view (o : Host.Outcome State Fault Refusal) : Option (Status × Bytes) :=
  match o with
  | .next t => some (t.status, t.out)
  | .fault _ => none
  | .refused _ => none

/-- INST of a next state. -/
def instOf (o : Host.Outcome State Fault Refusal) : Option Inst :=
  match o with
  | .next t => some t.inst
  | .fault _ => none
  | .refused _ => none

/-- RESULT of a next state. -/
def resultAt (o : Host.Outcome State Fault Refusal) : Option RegResult :=
  match o with
  | .next t => some t.result
  | .fault _ => none
  | .refused _ => none

/-- WORK of a next state. -/
def workOf (o : Host.Outcome State Fault Refusal) : Option Work :=
  match o with
  | .next t => some t.work
  | .fault _ => none
  | .refused _ => none

/-- ip of a next state. -/
def ipOf (o : Host.Outcome State Fault Refusal) : Option Nat :=
  match o with
  | .next t => some t.ip
  | .fault _ => none
  | .refused _ => none

/-- An engine after NEWFILTER of a kind. -/
def engine (k : Kind) (parms : Option ParmMap) : State :=
  { State.reset with inst := constructInst k parms Inst.cleared }

/-- An engine within a command, at a place of the input. -/
def reading (k : Kind) (input : Bytes) (ip : Nat) : State :=
  { engine k none with input := input, ip := ip }

/-- A Flate or LZW engine with the geometry (colors, bpc, columns), a Predictor and a buffer RAW. -/
def buffered (p colors bpc columns : Int) (raw : Bytes) : State :=
  { engine .flate (some [(keyPredictor, p), (keyColors, colors), (keyBitsPerComponent, bpc), (keyColumns, columns)]) with
    work := { Work.initial with raw := raw } }

/-- A Flate engine whose primitive is known on one input. -/
def inflating (p columns : Int) (x : Bytes) (answer : Option Bytes) : State :=
  { engine .flate (some [(keyPredictor, p), (keyColumns, columns)]) with
    cfg := { Config.reference with inflateKnown := [(x, answer)], deflateKnown := [([0x41, 0x42], x)] } }

/-! ## Well-formedness: an ill-formed term for each check -/

theorem test_wf_newfilterAscii85 : (.newfilterAscii85 (some [(keyColors, 1), (keyColors, 2)]) : Instr).wf = false := by decide
theorem test_wf_newfilterAsciihex : (.newfilterAsciihex (some [(keyColors, 1), (keyColors, 2)]) : Instr).wf = false := by decide
theorem test_wf_newfilterRunlength : (.newfilterRunlength (some [(keyColors, 1), (keyColors, 2)]) : Instr).wf = false := by decide
theorem test_wf_newfilterLzw : (.newfilterLzw (some [(keyColors, 1), (keyColors, 2)]) : Instr).wf = false := by decide
theorem test_wf_newfilterFlate : (.newfilterFlate (some [(keyColors, 1), (keyColors, 2)]) : Instr).wf = false := by decide
theorem test_wf_newfilterCcittfax : (.newfilterCcittfax (some [(keyColors, 1), (keyColors, 2)]) : Instr).wf = false := by decide
theorem test_wf_newfilterJbig2 : (.newfilterJbig2 (some [(keyColors, 1), (keyColors, 2)]) : Instr).wf = false := by decide
theorem test_wf_newfilterDct : (.newfilterDct (some [(keyColors, 1), (keyColors, 2)]) : Instr).wf = false := by decide
theorem test_wf_newfilterJpx : (.newfilterJpx (some [(keyColors, 1), (keyColors, 2)]) : Instr).wf = false := by decide
theorem test_wf_newfilterUnknown : (.newfilterUnknown [0x4C, 0x5A, 0x57] (some [(keyColors, 1), (keyColors, 2)]) : Instr).wf = false ∧ (.newfilterUnknown nameLzw none : Instr).wf = false := by decide
theorem test_wf_reservedFidNonzero : (.reservedFidNonzero 0 1 : Instr).wf = false ∧ (.reservedFidNonzero 5 1 : Instr).wf = false ∧ (.reservedFidNonzero 4 0 : Instr).wf = false := by decide
theorem test_wf_reservedFid9_14 : (.reservedFid9_14 1 9 : Instr).wf = false ∧ (.reservedFid9_14 0 8 : Instr).wf = false ∧ (.reservedFid9_14 5 15 : Instr).wf = false := by decide
theorem test_wf_rlRep : (.rlRep 0 : Instr).wf = false := by decide
theorem test_wf_pngIllegal : (.pngIllegal 4 : Instr).wf = false := by decide
theorem test_wf_predUndefined : (.predUndefined 1 : Instr).wf = false ∧ (.predUndefined 2 : Instr).wf = false ∧ (.predUndefined 10 : Instr).wf = false ∧ (.predUndefined 15 : Instr).wf = false := by decide
theorem test_wf_lzwRef : (.lzwRef 257 : Instr).wf = false := by decide
theorem test_wf_lzwKwkwk : (.lzwKwkwk 257 : Instr).wf = false := by decide
theorem test_wf_lzwIllegal : (.lzwIllegal 256 : Instr).wf = false ∧ (.lzwIllegal 257 : Instr).wf = false := by decide
theorem test_wf_a85Digit : (.a85Digit 0x20 : Instr).wf = false ∧ (.a85Digit 0x76 : Instr).wf = false := by decide
theorem test_wf_a85Ws : (.a85Ws 0x21 : Instr).wf = false := by decide
theorem test_wf_a85Illegal : (.a85Illegal 0x20 : Instr).wf = false ∧ (.a85Illegal 0x7A : Instr).wf = false ∧ (.a85Illegal 0x21 : Instr).wf = false := by decide
theorem test_wf_hexDigit : (.hexDigit 0x2F : Instr).wf = false ∧ (.hexDigit 0x3A : Instr).wf = false ∧ (.hexDigit 0x47 : Instr).wf = false ∧ (.hexDigit 0x60 : Instr).wf = false := by decide
theorem test_wf_hexWs : (.hexWs 0x0B : Instr).wf = false := by decide
theorem test_wf_hexIllegal : (.hexIllegal 0x3E : Instr).wf = false ∧ (.hexIllegal 0x0C : Instr).wf = false ∧ (.hexIllegal 0x66 : Instr).wf = false := by decide

/-! ## Decoding: each row from a word written out from the tables of 30_encoding.md -/

theorem test_decode_newfilterAscii85 : decode (.command .lzw) (.command ⟨0b00000000, nameAscii85, none, 0, []⟩) = .ok (.newfilterAscii85 none) := by decide
theorem test_decode_newfilterAsciihex : decode (.command .lzw) (.command ⟨0b00000001, nameAsciiHex, none, 0, []⟩) = .ok (.newfilterAsciihex none) := by decide
theorem test_decode_newfilterRunlength : decode (.command .lzw) (.command ⟨0b00000010, nameRunLength, none, 0, []⟩) = .ok (.newfilterRunlength none) := by decide
theorem test_decode_newfilterLzw : decode (.command .lzw) (.command ⟨0b00000011, nameLzw, none, 0, []⟩) = .ok (.newfilterLzw none) := by decide
theorem test_decode_newfilterFlate : decode (.command .lzw) (.command ⟨0b00000100, nameFlate, none, 0, []⟩) = .ok (.newfilterFlate none) := by decide
theorem test_decode_newfilterCcittfax : decode (.command .lzw) (.command ⟨0b00000101, nameCcittFax, none, 0, []⟩) = .ok (.newfilterCcittfax none) := by decide
theorem test_decode_newfilterJbig2 : decode (.command .lzw) (.command ⟨0b00000110, nameJbig2, none, 0, []⟩) = .ok (.newfilterJbig2 none) := by decide
theorem test_decode_newfilterDct : decode (.command .lzw) (.command ⟨0b00000111, nameDct, none, 0, []⟩) = .ok (.newfilterDct none) := by decide
theorem test_decode_newfilterJpx : decode (.command .lzw) (.command ⟨0b00001000, nameJpx, none, 0, []⟩) = .ok (.newfilterJpx none) := by decide
theorem test_decode_newfilterUnknown : decode (.command .lzw) (.command ⟨0b00001111, [0x4C, 0x5A, 0x57], none, 0, []⟩) = .ok (.newfilterUnknown [0x4C, 0x5A, 0x57] none) := by decide
theorem test_decode_encodeAscii85 : decode (.command .ascii85) (.command ⟨0b00010000, [], none, 0, [5]⟩) = .ok (.encodeAscii85 [5]) := by decide
theorem test_decode_encodeAsciihex : decode (.command .asciiHex) (.command ⟨0b00010000, [], none, 0, [5]⟩) = .ok (.encodeAsciihex [5]) := by decide
theorem test_decode_encodeRunlength : decode (.command .runLength) (.command ⟨0b00010000, [], none, 0, [5]⟩) = .ok (.encodeRunlength [5]) := by decide
theorem test_decode_encodeLzw : decode (.command .lzw) (.command ⟨0b00010000, [], none, 0, [5]⟩) = .ok (.encodeLzw [5]) := by decide
theorem test_decode_encodeFlate : decode (.command .flate) (.command ⟨0b00010000, [], none, 0, [5]⟩) = .ok (.encodeFlate [5]) := by decide
theorem test_decode_decodeAscii85 : decode (.command .ascii85) (.command ⟨0b00100000, [], none, 0, [5]⟩) = .ok (.decodeAscii85 [5]) := by decide
theorem test_decode_decodeAsciihex : decode (.command .asciiHex) (.command ⟨0b00100000, [], none, 0, [5]⟩) = .ok (.decodeAsciihex [5]) := by decide
theorem test_decode_decodeRunlength : decode (.command .runLength) (.command ⟨0b00100000, [], none, 0, [5]⟩) = .ok (.decodeRunlength [5]) := by decide
theorem test_decode_decodeLzw : decode (.command .lzw) (.command ⟨0b00100000, [], none, 0, [5]⟩) = .ok (.decodeLzw [5]) := by decide
theorem test_decode_decodeFlate : decode (.command .flate) (.command ⟨0b00100000, [], none, 0, [5]⟩) = .ok (.decodeFlate [5]) := by decide
theorem test_decode_decodelenAscii85 : decode (.command .ascii85) (.command ⟨0b00110000, [], none, -7, [5]⟩) = .ok (.decodelenAscii85 (-7) [5]) := by decide
theorem test_decode_decodelenAsciihex : decode (.command .asciiHex) (.command ⟨0b00110000, [], none, -7, [5]⟩) = .ok (.decodelenAsciihex (-7) [5]) := by decide
theorem test_decode_decodelenRunlength : decode (.command .runLength) (.command ⟨0b00110000, [], none, -7, [5]⟩) = .ok (.decodelenRunlength (-7) [5]) := by decide
theorem test_decode_decodelenLzw : decode (.command .lzw) (.command ⟨0b00110000, [], none, -7, [5]⟩) = .ok (.decodelenLzw (-7) [5]) := by decide
theorem test_decode_decodelenFlate : decode (.command .flate) (.command ⟨0b00110000, [], none, -7, [5]⟩) = .ok (.decodelenFlate (-7) [5]) := by decide
theorem test_decode_list : decode (.command .lzw) (.command ⟨0b01000000, [], none, 0, []⟩) = .ok .list := by decide
theorem test_decode_supports : decode (.command .lzw) (.command ⟨0b01010011, nameLzw, none, 0, []⟩) = .ok (.supports nameLzw) := by decide
theorem test_decode_reservedOp6_7 : decode (.command .lzw) (.command ⟨0b01110101, [], none, 0, []⟩) = .ok (.reservedOp6_7 1 5) := by decide
theorem test_decode_reservedOp8_15 : decode (.command .lzw) (.command ⟨0b11010110, [], none, 0, []⟩) = .ok (.reservedOp8_15 5 6) := by decide
theorem test_decode_reservedFidNonzero : decode (.command .lzw) (.command ⟨0b00110001, [], none, 0, []⟩) = .ok (.reservedFidNonzero 3 1) := by decide
theorem test_decode_reservedFid9_14 : decode (.command .lzw) (.command ⟨0b01011110, [], none, 0, []⟩) = .ok (.reservedFid9_14 5 14) := by decide
theorem test_decode_rlLit : decode .runLength (.bytes [0b01111111]) = .ok (.rlLit 127) := by decide
theorem test_decode_rlEod : decode .runLength (.bytes [0b10000000]) = .ok .rlEod := by decide
theorem test_decode_rlRep : decode .runLength (.bytes [0b10000001]) = .ok (.rlRep 1) := by decide
theorem test_decode_pngNone : decode .png (.bytes [0b00000000]) = .ok .pngNone := by decide
theorem test_decode_pngSub : decode .png (.bytes [0b00000001]) = .ok .pngSub := by decide
theorem test_decode_pngUp : decode .png (.bytes [0b00000010]) = .ok .pngUp := by decide
theorem test_decode_pngAvg : decode .png (.bytes [0b00000011]) = .ok .pngAvg := by decide
theorem test_decode_pngPaeth : decode .png (.bytes [0b00000100]) = .ok .pngPaeth := by decide
theorem test_decode_pngIllegal : decode .png (.bytes [0b00000101]) = .ok (.pngIllegal 5) := by decide
theorem test_decode_tiffHdiff : decode .tiffRow .untagged = .ok .tiffHdiff := by decide
theorem test_decode_predNone : decode .predictor (.value 1) = .ok .predNone := by decide
theorem test_decode_predTiff : decode .predictor (.value 2) = .ok .predTiff := by decide
theorem test_decode_predPng10 : decode .predictor (.value 10) = .ok .predPng10 := by decide
theorem test_decode_predPng11 : decode .predictor (.value 11) = .ok .predPng11 := by decide
theorem test_decode_predPng12 : decode .predictor (.value 12) = .ok .predPng12 := by decide
theorem test_decode_predPng13 : decode .predictor (.value 13) = .ok .predPng13 := by decide
theorem test_decode_predPng14 : decode .predictor (.value 14) = .ok .predPng14 := by decide
theorem test_decode_predPng15 : decode .predictor (.value 15) = .ok .predPng15 := by decide
theorem test_decode_predUndefined : decode .predictor (.value 9) = .ok (.predUndefined 9) := by decide
theorem test_decode_lzwLit : decode (.lzw 258 false) (.code 0b011111111) = .ok (.lzwLit 255) := by decide
theorem test_decode_lzwClear : decode (.lzw 4096 true) (.code 0b000100000000) = .ok .lzwClear := by decide
theorem test_decode_lzwEod : decode (.lzw 4096 true) (.code 0b000100000001) = .ok .lzwEod := by decide
theorem test_decode_lzwRef : decode (.lzw 260 true) (.code 0b100000011) = .ok (.lzwRef 259) := by decide
theorem test_decode_lzwKwkwk : decode (.lzw 260 true) (.code 0b100000100) = .ok (.lzwKwkwk 260) := by decide
theorem test_decode_lzwIllegal : decode (.lzw 260 true) (.code 0b100000101) = .ok (.lzwIllegal 261) := by decide
theorem test_decode_a85Digit : decode .ascii85 (.bytes [0b01110101]) = .ok (.a85Digit 0x75) := by decide
theorem test_decode_a85Z : decode .ascii85 (.bytes [0b01111010]) = .ok .a85Z := by decide
theorem test_decode_a85Eod : decode .ascii85 (.bytes [0b01111110, 0b00111110]) = .ok .a85Eod := by decide
theorem test_decode_a85Ws : decode .ascii85 (.bytes [0b00001010]) = .ok (.a85Ws 0x0A) := by decide
theorem test_decode_a85Illegal : decode .ascii85 (.bytes [0b01111110, 0b00100000]) = .ok (.a85Illegal 0x7E) := by decide
theorem test_decode_hexDigit : decode .asciiHex (.bytes [0b01100110]) = .ok (.hexDigit 0x66) := by decide
theorem test_decode_hexEod : decode .asciiHex (.bytes [0b00111110]) = .ok .hexEod := by decide
theorem test_decode_hexWs : decode .asciiHex (.bytes [0b00000000]) = .ok (.hexWs 0) := by decide
theorem test_decode_hexIllegal : decode .asciiHex (.bytes [0b00001011]) = .ok (.hexIllegal 0x0B) := by decide

/-- A table word is read in its bit numbering: an 8-bit word is a command byte, a 16-bit word an ASCII85 symbol. -/
theorem test_tableWord_command : decodeTableWord 8 0x40 = some .list := by decide
theorem test_tableWord_terminator : decodeTableWord 16 0x7E3E = some .a85Eod := by decide
theorem test_fetchWord_runs : view (step (State.reset.withFetchWord 8 0x61)) = some (.refusal .badCommand, []) := by decide
theorem test_fetchWord_terminator : view (step (State.reset.withFetchWord 16 0x7E3E)) = some (.ok, []) := by decide

/-! ## Commands -/

/-- V9. -/
theorem test_newfilterAscii85 :
    (instOf (exec (.newfilterAscii85 (some [(keyPredictor, 2), (keyColumns, 4)])) State.reset)) =
    some ⟨true, .ascii85, true, ⟨true, 2⟩, ⟨false, 0⟩, ⟨false, 0⟩, ⟨true, 4⟩⟩ := by decide
/-- V9. -/
theorem test_newfilterAsciihex :
    (instOf (exec (.newfilterAsciihex (some [(keyPredictor, 2), (keyColumns, 4)])) State.reset)) =
    some ⟨true, .asciiHex, true, ⟨true, 2⟩, ⟨false, 0⟩, ⟨false, 0⟩, ⟨true, 4⟩⟩ := by decide
/-- V9. -/
theorem test_newfilterRunlength :
    (instOf (exec (.newfilterRunlength (some [(keyPredictor, 2), (keyColumns, 4)])) State.reset)) =
    some ⟨true, .runLength, true, ⟨true, 2⟩, ⟨false, 0⟩, ⟨false, 0⟩, ⟨true, 4⟩⟩ := by decide
/-- V9. -/
theorem test_newfilterLzw :
    (instOf (exec (.newfilterLzw (some [(keyPredictor, 2), (keyColumns, 4)])) State.reset)) =
    some ⟨true, .lzw, true, ⟨true, 2⟩, ⟨false, 0⟩, ⟨false, 0⟩, ⟨true, 4⟩⟩ := by decide
/-- V9. -/
theorem test_newfilterFlate :
    (instOf (exec (.newfilterFlate (some [(keyPredictor, 2), (keyColumns, 4)])) State.reset)) =
    some ⟨true, .flate, true, ⟨true, 2⟩, ⟨false, 0⟩, ⟨false, 0⟩, ⟨true, 4⟩⟩ := by decide
/-- V11. -/
theorem test_newfilterCcittfax :
    (instOf (exec (.newfilterCcittfax none) (engine .lzw none))).map (·.valid) = some false ∧
    view (exec (.newfilterCcittfax none) (engine .lzw none)) = some (.error .unsupportedFilter, []) := by decide
/-- V11. -/
theorem test_newfilterJbig2 :
    (instOf (exec (.newfilterJbig2 none) (engine .lzw none))).map (·.valid) = some false ∧
    view (exec (.newfilterJbig2 none) (engine .lzw none)) = some (.error .unsupportedFilter, []) := by decide
/-- V11. -/
theorem test_newfilterDct :
    (instOf (exec (.newfilterDct none) (engine .lzw none))).map (·.valid) = some false ∧
    view (exec (.newfilterDct none) (engine .lzw none)) = some (.error .unsupportedFilter, []) := by decide
/-- V11. -/
theorem test_newfilterJpx :
    (instOf (exec (.newfilterJpx none) (engine .lzw none))).map (·.valid) = some false ∧
    view (exec (.newfilterJpx none) (engine .lzw none)) = some (.error .unsupportedFilter, []) := by decide
/-- V12. -/
theorem test_newfilterUnknown :
    (instOf (exec (.newfilterUnknown [0x4C, 0x5A, 0x57] none) (engine .lzw none))).map (·.valid) = some false ∧
    view (exec (.newfilterUnknown [0x4C, 0x5A, 0x57] none) (engine .lzw none)) = some (.error .unsupportedFilter, []) := by decide
/-- V1. -/
theorem test_list :
    resultAt (exec .list State.reset) =
    some (.names [nameAscii85, nameAsciiHex, nameRunLength, nameLzw, nameFlate]) := by decide
/-- V4, V7. -/
theorem test_supports :
    resultAt (exec (.supports nameCcittFax) State.reset) = some (.answer true) ∧
    resultAt (exec (.supports [0x4C, 0x5A, 0x57]) State.reset) = some (.answer false) := by decide
/-- V13. -/
theorem test_reservedOp6_7 :
    view (exec (.reservedOp6_7 0 0) (engine .lzw none)) = some (.refusal .badCommand, []) ∧
    instOf (exec (.reservedOp6_7 0 0) (engine .lzw none)) = some (engine .lzw none).inst := by decide
/-- V13. -/
theorem test_reservedOp8_15 :
    view (exec (.reservedOp8_15 7 0) (engine .lzw none)) = some (.refusal .badCommand, []) ∧
    instOf (exec (.reservedOp8_15 7 0) (engine .lzw none)) = some (engine .lzw none).inst := by decide
/-- V13. -/
theorem test_reservedFidNonzero :
    view (exec (.reservedFidNonzero 1 1) (engine .lzw none)) = some (.refusal .badCommand, []) ∧
    instOf (exec (.reservedFidNonzero 1 1) (engine .lzw none)) = some (engine .lzw none).inst := by decide
/-- V13. -/
theorem test_reservedFid9_14 :
    view (exec (.reservedFid9_14 0 9) (engine .lzw none)) = some (.refusal .badCommand, []) ∧
    instOf (exec (.reservedFid9_14 0 9) (engine .lzw none)) = some (engine .lzw none).inst := by decide
/-- V145. -/
theorem test_encodeAscii85 :
    view (exec (.encodeAscii85 [0x4D, 0x61, 0x6E]) (engine .ascii85 none)) = some (.ok, [0x39, 0x6A, 0x71, 0x6F, 0x7E, 0x3E]) := by decide
/-- V143. -/
theorem test_encodeAscii85_zero :
    view (exec (.encodeAscii85 [0x00, 0x00, 0x00, 0x00, 0x00]) (engine .ascii85 none)) = some (.ok, [0x7A, 0x21, 0x21, 0x7E, 0x3E]) := by decide
/-- V155, V156. -/
theorem test_decodeAscii85 :
    view (exec (.decodeAscii85 [0x39, 0x6A, 0x20, 0x71, 0x6F, 0x5E, 0x7E, 0x3E, 0x78]) (engine .ascii85 none)) = some (.ok, [0x4D, 0x61, 0x6E, 0x20]) := by decide
/-- V163. -/
theorem test_decodeAscii85_missing :
    view (exec (.decodeAscii85 [0x39, 0x6A, 0x71, 0x6F, 0x5E, 0x7E, 0x20, 0x3E]) (engine .ascii85 none)) = some (.error .a85MissingEod, []) := by decide
/-- V251. -/
theorem test_decodelenAscii85 :
    view (exec (.decodelenAscii85 2 [0x39, 0x6A, 0x71, 0x6F, 0x5E, 0x7E, 0x3E]) (engine .ascii85 none)) = some (.ok, [0x4D, 0x61]) := by decide
/-- V250. -/
theorem test_decodelenAscii85_missing :
    view (exec (.decodelenAscii85 0 [0x39, 0x6A, 0x71, 0x6F, 0x5E]) (engine .ascii85 none)) = some (.error .a85MissingEod, []) := by decide
/-- V182. -/
theorem test_encodeAsciihex :
    view (exec (.encodeAsciihex [0xDE, 0xAD, 0xBE, 0xEF]) (engine .asciiHex none)) = some (.ok, [0x64, 0x65, 0x61, 0x64, 0x62, 0x65, 0x65, 0x66, 0x3E]) := by decide
/-- V190, V192. -/
theorem test_decodeAsciihex :
    view (exec (.decodeAsciihex [0x34, 0x38, 0x20, 0x36, 0x3E, 0x5A, 0x5A]) (engine .asciiHex none)) = some (.ok, [0x48, 0x60]) := by decide
/-- V193. -/
theorem test_decodeAsciihex_missing :
    view (exec (.decodeAsciihex [0x34, 0x38]) (engine .asciiHex none)) = some (.error .hexMissingEod, []) := by decide
/-- V240. -/
theorem test_decodelenAsciihex :
    view (exec (.decodelenAsciihex 2 [0x34, 0x38, 0x36, 0x35, 0x36, 0x63, 0x36, 0x63, 0x36, 0x66, 0x3E]) (engine .asciiHex none)) = some (.ok, [0x48, 0x65]) := by decide
/-- V244. -/
theorem test_decodelenAsciihex_error :
    view (exec (.decodelenAsciihex 1 [0x34, 0x38, 0x36, 0x35, 0x7A, 0x7A, 0x3E]) (engine .asciiHex none)) = some (.error .hexInvalid, []) := by decide
/-- V209. -/
theorem test_encodeRunlength :
    view (exec (.encodeRunlength [0x41, 0x42, 0x43, 0x44, 0x44, 0x44, 0x44, 0x44, 0x44, 0x45]) (engine .runLength none)) = some (.ok, [0x02, 0x41, 0x42, 0x43, 0xFB, 0x44, 0x00, 0x45, 0x80]) := by decide
/-- R24, R63: the cursor is behind the input (log 31). -/
theorem test_encodeRunlength_ip :
    ipOf (exec (.encodeRunlength [0x41, 0x42, 0x43, 0x43]) (engine .runLength none)) = some 4 ∧
    (workOf (exec (.encodeRunlength [0x41, 0x42, 0x43, 0x43]) (engine .runLength none))).map (·.scanI) = some 4 := by decide
/-- R231. -/
theorem test_decodeRunlength :
    view (exec (.decodeRunlength [0xFE, 0x42, 0x01, 0x43, 0x44, 0x80, 0x63]) (engine .runLength none)) = some (.ok, [0x42, 0x42, 0x42, 0x43, 0x44]) := by decide
/-- R228. -/
theorem test_decodeRunlength_cut :
    view (exec (.decodeRunlength [0x00, 0x41]) (engine .runLength none)) = some (.error .rlTruncated, []) := by decide
/-- V246. -/
theorem test_decodelenRunlength_exact :
    view (exec (.decodelenRunlength 1 [0xFE, 0x42, 0x01, 0x43, 0x44, 0x80]) (engine .runLength none)) = some (.ok, [0x42]) := by decide
/-- V247. -/
theorem test_decodelenRunlength_lazy :
    view (exec (.decodelenRunlength 1 [0x00, 0x41]) { engine .runLength none with cfg := { Config.reference with boundedStop := .lazy } }) = some (.ok, [0x41]) := by decide
/-- R243, D40: an engine that gives one byte more than asked for, on a case it lists. -/
theorem test_decodelenRunlength_choose :
    view (exec (.decodelenRunlength 1 [0xFE, 0x42, 0x01, 0x43, 0x44, 0x80])
      { engine .runLength none with
        cfg := { Config.reference with
          boundedStop := .choose [(⟨.runLength, [], [0xFE, 0x42, 0x01, 0x43, 0x44, 0x80], 1⟩, some 2)] } }) =
    some (.ok, [0x42, 0x42]) := by decide
/-- V72. -/
theorem test_encodeLzw :
    view (exec (.encodeLzw [0x41, 0x41, 0x41, 0x41]) (engine .lzw none)) = some (.ok, [0x80, 0x10, 0x60, 0x44, 0x18, 0x08]) := by decide
/-- V70, V111. -/
theorem test_encodeLzw_empty :
    view (exec (.encodeLzw []) (engine .lzw (some [(keyPredictor, 12)]))) = some (.ok, [0x80, 0x40, 0x40]) := by decide
/-- R142. -/
theorem test_decodeLzw :
    view (exec (.decodeLzw [0x80, 0x0B, 0x60, 0x50, 0x22, 0x0C, 0x0C, 0x85, 0x01]) (engine .lzw none)) = some (.ok, [0x2D, 0x2D, 0x2D, 0x2D, 0x2D, 0x41, 0x2D, 0x2D, 0x2D, 0x42]) := by decide
/-- V106. -/
theorem test_decodeLzw_tiff :
    view (exec (.decodeLzw [0x80, 0x02, 0x80, 0xA0, 0x30, 0x14, 0x04]) (engine .lzw (some [(keyPredictor, 2), (keyColumns, 4)]))) = some (.ok, [0x0A, 0x0F, 0x12, 0x14]) := by decide
/-- V254. -/
theorem test_decodelenLzw :
    view (exec (.decodelenLzw 3 [0x80, 0x0B, 0x60, 0x50, 0x22, 0x0C, 0x0C, 0x85, 0x01]) (engine .lzw none)) = some (.ok, [0x2D, 0x2D, 0x2D]) := by decide
/-- V256. -/
theorem test_decodelenLzw_parameter :
    view (exec (.decodelenLzw 0 []) (engine .lzw (some [(keyPredictor, 12)]))) = some (.error .unsupportedPredictor, []) := by decide
/-- V131. -/
theorem test_encodeFlate :
    view (exec (.encodeFlate [0x41, 0x42]) (inflating 1 7 [0x78] none)) = some (.ok, [0x78]) := by decide
/-- V132. -/
theorem test_encodeFlate_predictor :
    view (exec (.encodeFlate [0x41, 0x42]) (inflating 12 3 [0x78] none)) = some (.refusal .encodePredictor, []) := by decide
/-- V122. -/
theorem test_decodeFlate :
    view (exec (.decodeFlate [0x78]) (inflating 12 3 [0x78] (some [0x01, 0x01, 0x01, 0x01, 0x02, 0x01, 0x01, 0x01]))) = some (.ok, [0x01, 0x02, 0x03, 0x02, 0x03, 0x04]) := by decide
/-- V127. -/
theorem test_decodeFlate_corrupt :
    view (exec (.decodeFlate [0x78]) (inflating 12 3 [0x78] none)) = some (.error .flateCorrupt, []) := by decide
/-- V260. -/
theorem test_decodelenFlate :
    view (exec (.decodelenFlate 3 [0x78]) (inflating 12 3 [0x78] (some [0x01, 0x01, 0x01, 0x01, 0x05, 0x01, 0x01, 0x01]))) = some (.error .predictorData, []) := by decide
/-- V264. -/
theorem test_decodelenFlate_validated :
    view (exec (.decodelenFlate 0 [0x78]) (engine .flate (some [(keyColors, 0)]))) = some (.error .colors, []) := by decide
/-- V265. -/
theorem test_data_command_without_engine :
    view (exec (.decodelenFlate 0 [0x78]) State.reset) = some (.refusal .noInstance, []) := by decide

/-- R247, R248, V264: the bytes in front of an error. -/
theorem test_traces :
    traceOf .runLength [0x00, 0x41] (engine .runLength none) = some ([0x41], some .rlTruncated) ∧
    traceOf .asciiHex [0x34, 0x38, 0x36, 0x35, 0x7A, 0x7A, 0x3E] (engine .asciiHex none) =
      some ([0x48, 0x65], some .hexInvalid) ∧
    traceOf .lzw [0x80, 0x10, 0x60] (engine .lzw none) = some ([0x41], some .lzwCorrupt) ∧
    traceOf .flate [0x78] (inflating 12 1 [0x78] (some [0, 7, 5, 7])) = some ([7], some .predictorData) ∧
    traceOf .flate [0x78] (engine .flate (some [(keyColors, 0)])) = some ([], some .colors) := by decide

/-! ## Symbols, one transition each -/

/-- V218. -/
theorem test_rlLit :
    view (exec (.rlLit 2) (reading .runLength [0x02, 0x41, 0x42, 0x43, 0x80] 1)) = some (.ok, [0x41, 0x42, 0x43]) ∧
    ipOf (exec (.rlLit 2) (reading .runLength [0x02, 0x41, 0x42, 0x43, 0x80] 1)) = some 4 := by decide
/-- V227. -/
theorem test_rlLit_cut :
    view (exec (.rlLit 5) (reading .runLength [0x05, 0x41, 0x42, 0x80] 1)) = some (.error .rlTruncated, []) := by decide
/-- V221. -/
theorem test_rlEod :
    view (exec (.rlEod) (reading .runLength [0x80, 0x41] 1)) = some (.ok, []) := by decide
/-- V217. -/
theorem test_rlRep :
    view (exec (.rlRep 126) (reading .runLength [0xFE, 0x42, 0x80] 1)) = some (.ok, [0x42, 0x42, 0x42]) := by decide
/-- Log 27: no length byte gives the field 0. -/
theorem test_rlRep_zero :
    view (exec (.rlRep 0) (reading .runLength [0x42, 0x80] 0)) = some (.error .rlTruncated, []) := by decide
/-- V220. -/
theorem test_rlRep_most :
    view (exec (.rlRep 1) (reading .runLength [0x81, 0x41, 0x80] 1)) = some (.ok, List.replicate 128 0x41) := by decide
/-- V44. -/
theorem test_pngNone :
    view (exec (.pngNone) (buffered 12 1 8 2 [0x00, 0x05, 0x06])) = some (.ok, [0x05, 0x06]) := by decide
/-- V45. -/
theorem test_pngSub :
    view (exec (.pngSub) (buffered 12 1 8 4 [0x01, 0x01, 0x01, 0x01, 0xFF])) = some (.ok, [0x01, 0x02, 0x03, 0x02]) := by decide
/-- V46. -/
theorem test_pngSub_wide :
    view (exec (.pngSub) (buffered 12 1 16 2 [0x01, 0x01, 0x02, 0x03, 0x04])) = some (.ok, [0x01, 0x02, 0x04, 0x06]) := by decide
/-- V47. -/
theorem test_pngUp :
    view (exec (.pngUp) { buffered 12 1 8 3 [0x02, 0x01, 0x02, 0x03] with work := { Work.initial with raw := [0x02, 0x01, 0x02, 0x03], prevRow := some [0x0A, 0x14, 0xFF] } }) = some (.ok, [0x0B, 0x16, 0x02]) := by decide
/-- V49. -/
theorem test_pngAvg :
    view (exec (.pngAvg) { buffered 12 1 8 2 [0x03, 0x01, 0x01] with work := { Work.initial with raw := [0x03, 0x01, 0x01], prevRow := some [0x0A, 0x14] } }) = some (.ok, [0x06, 0x0E]) := by decide
/-- V51. -/
theorem test_pngPaeth :
    view (exec (.pngPaeth) (buffered 12 1 8 4 [0x04, 0x01, 0x02, 0x03, 0x04])) = some (.ok, [0x01, 0x03, 0x06, 0x0A]) := by decide
/-- V52. -/
theorem test_pngPaeth_up :
    view (exec (.pngPaeth) { buffered 12 1 8 1 [0x04, 0x01] with work := { Work.initial with raw := [0x04, 0x01], prevRow := some [0x0A] } }) = some (.ok, [0x0B]) := by decide
/-- R130. -/
theorem test_paeth :
    paeth 100 100 100 = 100 ∧ paeth 10 200 200 = 10 ∧ paeth 200 10 200 = 10 ∧ paeth 1 2 0 = 2 ∧
    paeth 255 255 0 = 255 ∧ paeth 50 60 55 = 55 ∧ paeth 255 0 255 = 0 := by decide
/-- V59. -/
theorem test_pngIllegal :
    view (exec (.pngIllegal 5) (buffered 12 1 8 1 [0x05, 0x01])) = some (.error .predictorData, []) := by decide
/-- V32. -/
theorem test_tiffHdiff :
    view (exec (.tiffHdiff) (buffered 2 3 8 3 [0x01, 0x02, 0x03, 0x0A, 0x14, 0x1E, 0x05, 0x05, 0x05])) = some (.ok, [0x01, 0x02, 0x03, 0x0B, 0x16, 0x21, 0x10, 0x1B, 0x26]) := by decide
/-- R50: a TIFF buffer writes neither row buffer. -/
theorem test_predTiff_rows :
    (workOf (exec .predTiff { buffered 2 1 8 1 [7] with work := { Work.initial with raw := [7], curRow := [1], prevRow := some [2] } })).map
      (fun w => (w.prevRow, w.curRow, w.rowIndex)) = some (some [2], [1], 1) := by decide
/-- Log 32: Columns and Colors below 1. -/
theorem test_geometry_invalid :
    rowBytes (buffered 2 1 8 (-4) []).inst = 0 ∧ stride (buffered 2 (-3) 8 1 []).inst = 0 ∧
    bytesPerPixel (buffered 2 (-3) 8 1 []).inst = 1 ∧ horDiff 0 [3, 4] = [3, 4] := by decide
/-- V41. -/
theorem test_tiffHdiff_stride :
    view (exec (.tiffHdiff) (buffered 2 1 16 2 [0x0A, 0x05, 0x03, 0x02])) = some (.ok, [0x0A, 0x0F, 0x12, 0x14]) := by decide
/-- R120. -/
theorem test_predNone :
    view (exec (.predNone) (buffered 1 1 8 1 [0x01, 0x02])) = some (.ok, [0x01, 0x02]) := by decide
/-- V40. -/
theorem test_predTiff :
    view (exec (.predTiff) (buffered 2 2 8 2 [0x0A, 0x05, 0x03, 0x02, 0xC8, 0x64, 0x00, 0x01])) = some (.ok, [0x0A, 0x05, 0x0D, 0x07, 0xC8, 0x64, 0xC8, 0x65]) := by decide
/-- V42. -/
theorem test_predTiff_short :
    view (exec (.predTiff) (buffered 2 1 8 3 [0x0A, 0x05, 0x03, 0x02, 0xC8, 0x64, 0x00, 0x01])) = some (.error .predictorData, []) := by decide
/-- V53. -/
theorem test_predPng10 :
    view (exec (.predPng10) (buffered 10 1 8 3 [0x01, 0x01, 0x01, 0x01, 0x02, 0x01, 0x01, 0x01])) = some (.ok, [0x01, 0x02, 0x03, 0x02, 0x03, 0x04]) := by decide
/-- V54. -/
theorem test_predPng11 :
    view (exec (.predPng11) (buffered 11 1 8 4 [0x04, 0x01, 0x02, 0x03, 0x04])) = some (.ok, [0x01, 0x03, 0x06, 0x0A]) := by decide
/-- V56. -/
theorem test_predPng12 :
    view (exec (.predPng12) (buffered 12 1 8 1 [0x02, 0x0A, 0x02, 0x0A, 0x02, 0xF0])) = some (.ok, [0x0A, 0x14, 0x04]) := by decide
/-- V57. -/
theorem test_predPng13 :
    view (exec (.predPng13) (buffered 13 1 16 2 [0x01, 0x01, 0x02, 0x03, 0x04])) = some (.ok, [0x01, 0x02, 0x04, 0x06]) := by decide
/-- V55. -/
theorem test_predPng14 :
    view (exec (.predPng14) (buffered 14 1 8 1 [0x03, 0x01, 0x03, 0x01])) = some (.ok, [0x01, 0x01]) := by decide
/-- V61. -/
theorem test_predPng15 :
    view (exec (.predPng15) (buffered 15 1 8 3 [])) = some (.ok, []) := by decide
/-- V59. -/
theorem test_predPng_tag :
    view (exec (.predPng12) (buffered 12 1 8 1 [0x05, 0x01])) = some (.error .predictorData, []) := by decide
/-- R253. -/
theorem test_predUndefined :
    view (exec (.predUndefined 3) (buffered 3 1 8 1 [])) = some (.error .undefinedPredictor, []) := by decide
/-- R148. -/
theorem test_lzwLit :
    (workOf (exec (.lzwLit 0x42) { engine .lzw none with work := { Work.initial with prev := some [0x41] } })).map (fun w => (w.table, w.next, w.prev)) =
    some ([[0x41, 0x42]], 259, some [0x42]) := by decide
/-- R151. -/
theorem test_lzwLit_widens :
    (workOf (exec (.lzwLit 0x42) { engine .lzw none with work := { Work.initial with prev := some [0x41], next := 510 } })).map (fun w => (w.next, w.width)) =
    some (511, 10) := by decide
/-- R143. -/
theorem test_lzwClear :
    workOf (exec .lzwClear { engine .lzw none with work := { Work.initial with prev := some [0x41], next := 4096, width := 12, table := [[1, 2]] } }) = some Work.initial := by decide
/-- R145. -/
theorem test_lzwEod :
    view (exec (.lzwEod) { engine .lzw none with out := [0x41] }) = some (.ok, [0x41]) := by decide
/-- V81. -/
theorem test_lzwRef :
    view (exec (.lzwRef 258) { engine .lzw none with work := { Work.initial with prev := some [0x42], next := 259, table := [[0x41, 0x42]] } }) = some (.ok, [0x41, 0x42]) := by decide
/-- R148. -/
theorem test_lzwKwkwk :
    view (exec (.lzwKwkwk 258) { engine .lzw none with work := { Work.initial with prev := some [0x41] } }) = some (.ok, [0x41, 0x41]) := by decide
/-- V85. -/
theorem test_lzwKwkwk_first :
    view (exec (.lzwKwkwk 258) (engine .lzw none)) = some (.error .lzwCorrupt, []) := by decide
/-- R149. -/
theorem test_lzwIllegal :
    view (exec (.lzwIllegal 260) (engine .lzw none)) = some (.error .lzwCorrupt, []) := by decide
/-- V144. -/
theorem test_a85Digit :
    view (exec (.a85Digit 0x5E) { engine .ascii85 none with work := { Work.initial with group := [24, 73, 80, 78] } }) = some (.ok, [0x4D, 0x61, 0x6E, 0x20]) := by decide
/-- V169. -/
theorem test_a85Digit_over :
    view (exec (.a85Digit 0x22) { engine .ascii85 none with work := { Work.initial with group := [82, 23, 54, 12] } }) = some (.error .a85Invalid, []) := by decide
/-- V157. -/
theorem test_a85Z :
    view (exec (.a85Z) (engine .ascii85 none)) = some (.ok, [0x00, 0x00, 0x00, 0x00]) := by decide
/-- V166. -/
theorem test_a85Z_inside :
    view (exec (.a85Z) { engine .ascii85 none with work := { Work.initial with group := [24] } }) = some (.error .a85Invalid, []) := by decide
/-- V146. -/
theorem test_a85Eod :
    view (exec (.a85Eod) { engine .ascii85 none with work := { Work.initial with group := [24, 73, 77] } }) = some (.ok, [0x4D, 0x61]) := by decide
/-- R196 writes no g; R86: the terminator is two bytes (log 17). -/
theorem test_a85Eod_registers :
    (workOf (exec .a85Eod { engine .ascii85 none with work := { Work.initial with group := [24, 73, 77] } })).map (·.group) =
      some [24, 73, 77] ∧
    ipOf (exec (.decodeAscii85 [0x39, 0x6A, 0x7E, 0x3E, 0x78]) (engine .ascii85 none)) = some 4 := by decide
/-- Log 34: a register of more than four entries. -/
theorem test_a85_register_outside :
    view (exec .a85Eod { engine .ascii85 none with work := { Work.initial with group := [0, 0, 0, 0, 1] } }) =
      some (.ok, [0, 0, 0, 1]) ∧
    (workOf (exec (.a85Digit 0x22) { engine .ascii85 none with work := { Work.initial with group := [0, 0, 0, 0, 1] } })).map (·.group) =
      some [0, 0, 0, 0, 1, 1] := by decide
/-- V165. -/
theorem test_a85Eod_one :
    view (exec (.a85Eod) { engine .ascii85 none with work := { Work.initial with group := [24] } }) = some (.error .a85Invalid, []) := by decide
/-- R193. -/
theorem test_a85Ws :
    (workOf (exec (.a85Ws 0x0A) { engine .ascii85 none with work := { Work.initial with group := [24] } })).map (·.group) = some [24] := by decide
/-- V167. -/
theorem test_a85Illegal :
    view (exec (.a85Illegal 0x76) (engine .ascii85 none)) = some (.error .a85Invalid, []) := by decide
/-- R213. -/
theorem test_hexDigit :
    view (exec (.hexDigit 0x42) { engine .asciiHex none with work := { Work.initial with hi := some 4 } }) = some (.ok, [0x4B]) := by decide
/-- R214. -/
theorem test_hexEod :
    view (exec (.hexEod) { engine .asciiHex none with work := { Work.initial with hi := some 4 } }) = some (.ok, [0x40]) := by decide
/-- R212. -/
theorem test_hexWs :
    (workOf (exec (.hexWs 0x20) { engine .asciiHex none with work := { Work.initial with hi := some 4 } })).map (·.hi) = some (some 4) := by decide
/-- Log 27: a byte outside WS. -/
theorem test_ws_outside :
    view (exec (.hexWs 0x0B) (engine .asciiHex none)) = some (.error .hexInvalid, []) ∧
    view (exec (.a85Ws 0x0B) (engine .ascii85 none)) = some (.error .a85Invalid, []) := by decide
/-- V195. -/
theorem test_hexIllegal :
    view (exec (.hexIllegal 0x47) { engine .asciiHex none with work := { Work.initial with hi := some 4 } }) = some (.error .hexInvalid, []) := by decide

/-! ## The machine -/

/-- R104. -/
theorem test_step_command :
    view (step (withCommand ⟨0x20, [], none, 0, [0xFE, 0x42, 0x80]⟩ (engine .runLength none))) = some (.ok, [0x42, 0x42, 0x42]) := by decide
/-- R280. -/
theorem test_step_reset :
    instOf (step { engine .lzw none with pending := [.reset] }) = some Inst.cleared := by decide
/-- R282. -/
theorem test_program :
    runProgram [⟨0x02, nameRunLength, none, 0, []⟩, ⟨0x20, [], none, 0, [0x00, 0x41]⟩, ⟨0x20, [], none, 0, [0xFF, 0x41, 0x80]⟩] State.reset =
    [some (.ok, .nothing), some (.error .rlTruncated, .nothing), some (.ok, .bytes [0x41, 0x41])] := by decide
/-- R291: the premises `ResetState`, `HostQuiet` and `NoRefusal`, each met and each not met. -/
theorem test_premises :
    ResetState State.reset ∧ ¬ ResetState (engine .lzw none) ∧
    HostQuiet [.between (.command ⟨0x40, [], none, 0, []⟩), .between .reset] ∧
    ¬ HostQuiet [.between .reset, .readOutAfterError] ∧
    hostEvents [.between .reset, .readWork, .between (.command ⟨0x40, [], none, 0, []⟩)] =
      [.reset, .command ⟨0x40, [], none, 0, []⟩] ∧
    NoRefusal (runProgram [⟨0x05, nameCcittFax, none, 0, []⟩] State.reset) ∧
    ¬ NoRefusal (runProgram [⟨0x20, [], none, 0, [0x3E]⟩] State.reset) := by
  unfold ResetState HostQuiet NoRefusal
  refine ⟨by decide, by decide, ?_, ?_, by decide, ?_, ?_⟩
  · intro m h; fin_cases h <;> exact ⟨_, rfl⟩
  · intro h; obtain ⟨e, he⟩ := h .readOutAfterError (by decide); cases he
  · intro o h; fin_cases h; exact ⟨_, _, rfl, by intro r; exact fun h => by cases h⟩
  · intro h
    obtain ⟨st, d, he, hn⟩ := h (some (.refusal .noInstance, .nothing)) (by decide)
    cases he; exact hn _ rfl
/-- R291, log 14: a command that a finite capacity stops ends the observation. -/
theorem test_program_capacity :
    runProgram [⟨0x20, [], none, 0, [1, 2]⟩, ⟨0x40, [], none, 0, []⟩]
      { engine .runLength none with cfg := { Config.reference with maxIn := some 1 } } = [none, none] := by decide
/-- R110: after a reserved byte ip, MAXLEN and WORK are as before. -/
theorem test_reserved_keeps :
    ipOf (exec (.reservedOp6_7 0 0) { engine .lzw none with ip := 7, work := { Work.initial with hi := some 3 } }) = some 7 ∧
    workOf (exec (.reservedOp6_7 0 0) { engine .lzw none with work := { Work.initial with hi := some 3 } }) =
      some { Work.initial with hi := some 3 } := by decide
/-- R251. -/
theorem test_status_codes :
    ([.ok, .error .unsupportedFilter, .error .predictorData, .refusal .noInstance, .refusal .badCommand] : List Status).map statusCode =
    [0, 1, 14, 15, 17] := by decide
/-- R241. -/
theorem test_stopping :
    checkBufLen 101 100 = false ∧ checkBufLen 0 (-5) = true := by decide
/-- V15, V17, V19, V23, V22. -/
theorem test_validation :
    ([(0, 1, 8, 1), (12, 0, 8, 1), (1, 0, 7, 0), (1, 1, 7, 0), (1, 1, 8, 0)] : List (Int × Int × Int × Int)).map
      (fun p => validateParms .lzw (buffered p.1 p.2.1 p.2.2.1 p.2.2.2 []).inst) =
    [some .undefinedPredictor, some .unsupportedPredictor, some .colors, some .bpc, some .columns] := by decide

/-! ## Witnesses: the premises of each obligation are met, clause by clause, at boundary values -/

theorem ready_engine (k : Kind) (parms : Option ParmMap) : Ready (engine k parms) :=
  And.intro rfl ⟨rfl, rfl, rfl, rfl⟩

theorem ready_buffered (p c b w : Int) (raw : Bytes) : Ready (buffered p c b w raw) :=
  And.intro rfl ⟨rfl, rfl, rfl, rfl⟩

theorem ready_inflating (p w : Int) (x : Bytes) (a : Option Bytes) : Ready (inflating p w x a) :=
  And.intro rfl ⟨rfl, rfl, rfl, rfl⟩

/-- An engine whose PARAM_BITS is 32, the least value (10_state.md R22). -/
def narrow (k : Kind) : State :=
  { engine k none with cfg := { Config.reference with paramBits := some 32 } }

theorem ready_narrow (k : Kind) : Ready (narrow k) :=
  And.intro rfl ⟨rfl, rfl, rfl, rfl⟩

theorem geometry_default (k : Kind) : GeometryOk (engine k none).inst := by
  unfold GeometryOk; cases k <;> decide

theorem geometry_legal : GeometryOk (buffered 1 1 1 1 []).inst ∧ GeometryOk (buffered 2 3 16 7 []).inst ∧
    GeometryOk (buffered 15 1 8 1 []).inst := by
  unfold GeometryOk; decide

theorem witness_DecodeInvertsEncode :
    ((.newfilterLzw (some [(keyColors, 3)]) : Instr).wf = true ∧ (.newfilterLzw (some [(keyColors, 3)]) : Instr).fits (.command .flate) = true) ∧
    ((.rlRep 1 : Instr).wf = true ∧ (.rlRep 1 : Instr).fits .runLength = true) ∧
    ((.rlRep 127 : Instr).wf = true ∧ (.rlLit 127 : Instr).fits .runLength = true) ∧
    ((.lzwRef 258 : Instr).wf = true ∧ (.lzwRef 258 : Instr).fits (.lzw 259 true) = true) ∧
    ((.lzwRef 4094 : Instr).wf = true ∧ (.lzwRef 4094 : Instr).fits (.lzw 4095 true) = true) ∧
    ((.lzwKwkwk 258 : Instr).wf = true ∧ (.lzwKwkwk 258 : Instr).fits (.lzw 258 true) = true) ∧
    ((.lzwIllegal 4095 : Instr).wf = true ∧ (.lzwIllegal 4095 : Instr).fits (.lzw 258 false) = true) ∧
    ((.a85Digit 0x75 : Instr).wf = true ∧ (.a85Digit 0x75 : Instr).fits .ascii85 = true) ∧
    ((.predUndefined 9 : Instr).wf = true ∧ (.predUndefined 9 : Instr).fits .predictor = true) := by decide

theorem witness_DecodedInstructionsFit :
    decode (.lzw 4096 true) (.code 4095) = .ok (.lzwIllegal 4095) ∧ (∀ c, Encoded.code 4095 = .code c → c < 4096) ∧
    decode (.command .lzw) (.command ⟨0x03, nameLzw, some [(keyColors, 3)], 0, []⟩) = .ok (.newfilterLzw (some [(keyColors, 3)])) ∧
    (∀ c, Encoded.command ⟨0x03, nameLzw, some [(keyColors, 3)], 0, []⟩ = .command c → parmsWf c.parms = true) := by
  refine ⟨by decide, ?_, by decide, ?_⟩
  · intro c h; cases h; decide
  · intro c h; cases h; decide

theorem witness_TextCharacterClasses :
    ((0x7E : Byte) = 0x7E ∧ ([0x3E] : Bytes).head? = some 0x3E) ∧
    (0x00 : Byte) ∈ ([0x00, 0x09, 0x0A, 0x0C, 0x0D, 0x20] : List Byte) ∧
    ((0x21 : Byte) ≤ 0x21 ∧ (0x75 : Byte) ≤ 0x75) ∧
    ((0x76 : Byte) ∉ ([0x00, 0x09, 0x0A, 0x0C, 0x0D, 0x20, 0x7A] : List Byte) ∧ ¬ ((0x21 : Byte) ≤ 0x76 ∧ (0x76 : Byte) ≤ 0x75) ∧
      ¬ ((0x76 : Byte) = 0x7E ∧ ([] : Bytes).head? = some 0x3E)) ∧
    ((0x7E : Byte) ∉ ([0x00, 0x09, 0x0A, 0x0C, 0x0D, 0x20, 0x7A] : List Byte) ∧ ¬ ((0x21 : Byte) ≤ 0x7E ∧ (0x7E : Byte) ≤ 0x75) ∧
      ¬ ((0x7E : Byte) = 0x7E ∧ ([0x3F] : Bytes).head? = some 0x3E)) ∧
    ((0x30 : Byte) ≤ 0x39 ∧ (0x39 : Byte) ≤ 0x39) ∧ ((0x41 : Byte) ≤ 0x46 ∧ (0x46 : Byte) ≤ 0x46) ∧
    ((0x61 : Byte) ≤ 0x66 ∧ (0x66 : Byte) ≤ 0x66) ∧
    ((0x67 : Byte) ∉ ([0x00, 0x09, 0x0A, 0x0C, 0x0D, 0x20, 0x3E] : List Byte) ∧ ¬ ((0x30 : Byte) ≤ 0x67 ∧ (0x67 : Byte) ≤ 0x39) ∧
      ¬ ((0x41 : Byte) ≤ 0x67 ∧ (0x67 : Byte) ≤ 0x46) ∧ ¬ ((0x61 : Byte) ≤ 0x67 ∧ (0x67 : Byte) ≤ 0x66)) := by decide

theorem witness_StepRunsTheDecodedCommand :
    ({ engine .lzw none with pending := [.command ⟨0x20, [], none, 0, [1]⟩] } : State).pending =
        .command ⟨0x20, [], none, 0, [1]⟩ :: [] ∧
      decode (.command (engine .lzw none).inst.kind) (.command ⟨0x20, [], none, 0, [1]⟩) = .ok (.decodeLzw [1]) ∧
    ({ engine .lzw none with pending := [.reset] } : State).pending = .reset :: [] ∧ State.reset.pending = [] := by
  decide

theorem witness_CodecRoundsRunTheDecodedSymbol :
    (reading .runLength [0x80] 0).input[(reading .runLength [0x80] 0).ip]? = some 0x80 ∧
    (reading .asciiHex [0x3E] 0).input[(reading .asciiHex [0x3E] 0).ip]? = some 0x3E ∧
    ({ reading .ascii85 [0x7A, 0x7E, 0x3E] 0 with work := { Work.initial with eodpos := 1 } } : State).ip ≠ 1 ∧
      (reading .ascii85 [0x7A, 0x7E, 0x3E] 0).input[0]? = some 0x7A ∧ decode .ascii85 (.bytes [0x7A]) = .ok .a85Z ∧
    ({ reading .ascii85 [0x7A, 0x7E, 0x3E] 1 with work := { Work.initial with eodpos := 1 } } : State).ip = 1 ∧
    bitRead [0x80, 0x40] Work.initial.bp Work.initial.width = some 256 ∧
    (buffered 12 1 8 1 [4, 7]).work.raw[(buffered 12 1 8 1 [4, 7]).work.rowIndex * (1 + rowBytes (buffered 12 1 8 1 [4, 7]).inst)]? =
      some 4 := by decide

theorem witness_ListDeliversTheNativeNames : State.reset.cfg.listOrder = Config.reference.listOrder := rfl

theorem witness_SupportsAnswersForEveryName : Unbounded State.reset.cfg := by decide

theorem witness_ClassifyComparesWholeNames :
    ([0, 8] : List Nat).all (· < 9) = true ∧ ([0x4C, 0x5A, 0x57] : Bytes) ∉ filterNames ∧ ([] : Bytes) ∉ filterNames := by decide

theorem witness_NewfilterConstructsTheInstance :
    Unbounded (narrow .lzw).cfg ∧ parmsFit (narrow .lzw).cfg.paramBits (some [(keyColors, 2147483647), (keyColumns, -2147483648)]) = true ∧
    ((some [(keyColors, 2147483647)] : Option ParmMap).bind fun m => m.lookup ParmKey.predictor.keyString) = none ∧
    ((some [(keyColors, 2147483647)] : Option ParmMap).bind fun m => m.lookup ParmKey.colors.keyString) = some 2147483647 := by
  decide

theorem witness_UnsupportedNamesClearTheInstance :
    Unbounded State.reset.cfg ∧
    ∀ i ∈ ([.newfilterCcittfax none, .newfilterJbig2 none, .newfilterDct none, .newfilterJpx none,
      .newfilterUnknown [0x58] none] : List Instr),
      i ∈ ([.newfilterCcittfax none, .newfilterJbig2 none, .newfilterDct none, .newfilterJpx none,
        .newfilterUnknown [0x58] none] : List Instr) :=
  ⟨by decide, fun _ h => h⟩

theorem witness_UnsupportedNamesClearTheInstance_data :
    (.encodeLzw [1] : Instr) = decodeEncode .lzw [1] ∧ (.decodeFlate [1] : Instr) = decodeDecode .flate [1] ∧
    (.decodelenAsciihex 2147483647 [1] : Instr) = decodeDecodelen .asciiHex 2147483647 [1] ∧
    fitsParamBits (narrow .asciiHex).cfg.paramBits 2147483647 = true := by decide

/-- Both clauses: the same limits bind a parameter and a `maxLen`. -/
theorem witness_ValuesBeyondParamBitsAreRefused :
    Unbounded (narrow .lzw).cfg ∧ (narrow .lzw).cfg.paramBits = some 32 ∧
    ((some [(keyColors, 2147483648)] : Option ParmMap).bind fun m => m.lookup ParmKey.colors.keyString) = some 2147483648 ∧
    ¬ (-(2 ^ (32 - 1) : Int) ≤ 2147483648 ∧ (2147483648 : Int) < (2 ^ (32 - 1) : Int)) ∧
    ¬ (-(2 ^ (32 - 1) : Int) ≤ -2147483649 ∧ (-2147483649 : Int) < (2 ^ (32 - 1) : Int)) := by decide

theorem witness_ParametersAndTheirDefaults :
    ([(keyColors, -3)] : ParmMap).lookup ParmKey.colors.keyString = some (-3) ∧
    ((none : Option ParmMap).bind fun m => m.lookup ParmKey.columns.keyString) = none ∧
    ((some [(keyColors, -3)] : Option ParmMap).bind fun m => m.lookup ParmKey.columns.keyString) = none ∧
    (∀ key : ParmKey, ([0x45, 0x61, 0x72, 0x6C, 0x79, 0x43, 0x68, 0x61, 0x6E, 0x67, 0x65] : Bytes) ≠ key.keyString) := by
  refine ⟨by decide, by decide, by decide, ?_⟩
  intro key; cases key <;> decide

theorem witness_DataCommandsNeedAnInstance :
    Unbounded State.reset.cfg ∧ State.reset.inst.valid = false ∧ fitsParamBits State.reset.cfg.paramBits (-1) = true ∧
    (.encodeAscii85 [] : Instr) = decodeEncode .ascii85 [] ∧ (.decodeLzw [] : Instr) = decodeDecode .lzw [] ∧
    (.decodelenFlate (-1) [] : Instr) = decodeDecodelen .flate (-1) [] := by decide

theorem witness_FirstFailingCheckIsReported :
    Ready (buffered 9 0 7 0 []) ∧ fitsParamBits (buffered 9 0 7 0 []).cfg.paramBits 0 = true ∧
    ((checks .lzw (buffered 9 0 7 0 []).inst).find? (·.1)).map (·.2) = some .undefinedPredictor ∧
    ((checks .lzw (buffered 10 0 7 0 []).inst).find? (·.1)).map (·.2) = some .unsupportedPredictor ∧
    ((checks .flate (buffered 10 0 7 0 []).inst).find? (·.1)).map (·.2) = some .colors ∧
    ((checks .flate (buffered 15 1 3 0 []).inst).find? (·.1)).map (·.2) = some .bpc ∧
    ((checks .lzw (buffered 2 1 16 0 []).inst).find? (·.1)).map (·.2) = some .columns :=
  ⟨ready_buffered _ _ _ _ _, by decide, by decide, by decide, by decide, by decide, by decide⟩

theorem witness_RowGeometryOfLegalParameters : GeometryOk (buffered 1 1 1 1 []).inst ∧ GeometryOk (buffered 2 3 16 7 []).inst :=
  ⟨geometry_legal.1, geometry_legal.2.1⟩

theorem witness_ParameterlessCodecsReadNoParameter :
    (∃ t, exec (.decodeRunlength [0x80]) (engine .runLength none) = .next t ∧
      (.decodeRunlength [0x80] : Instr) = decodeDecode .runLength [0x80]) ∧
    ∃ t, exec (.encodeLzw [1]) (engine .lzw none) = .next t :=
  ⟨⟨_, rfl, rfl⟩, ⟨_, rfl⟩⟩

theorem witness_RunLengthPackets :
    (reading .runLength [0x00, 0x41] 1).ip + ((0 : BitVec 7).toNat + 1) ≤ (reading .runLength [0x00, 0x41] 1).input.length ∧
    (reading .runLength (0x7F :: List.replicate 128 0x41) 1).ip + ((127 : BitVec 7).toNat + 1) ≤
      (reading .runLength (0x7F :: List.replicate 128 0x41) 1).input.length ∧
    (1 : BitVec 7) ≠ 0 ∧ (127 : BitVec 7) ≠ 0 ∧ (reading .runLength [0x81, 0x41] 1).input[1]? = some 0x41 ∧
    Unbounded (reading .runLength [0x80] 1).cfg ∧
    (reading .runLength [0x01, 0x41] 1).input.length < (reading .runLength [0x01, 0x41] 1).ip + ((1 : BitVec 7).toNat + 1) ∧
    (reading .runLength [0x81] 1).input.length ≤ (reading .runLength [0x81] 1).ip := by
  refine ⟨by decide, ?_, by decide, by decide, by decide, by decide, by decide, by decide⟩
  simp [reading]

theorem witness_CutPacketsAreTruncated :
    (∀ p ∈ [RlPacket.lit [1], RlPacket.rep 2 3], p.wf = true) ∧ Ready (engine .runLength none) ∧ ([] : Bytes) = [] ∧
    (∃ (L : Byte) (l : Bytes), L < 128 ∧ l.length < L.toNat + 1 ∧ ([0x00] : Bytes) = L :: l) ∧
    (∃ (L : Byte) (l : Bytes), L < 128 ∧ l.length < L.toNat + 1 ∧ (0x7F :: List.replicate 127 0x80 : Bytes) = L :: l) ∧
    (∃ L : Byte, 128 < L ∧ ([0x81] : Bytes) = [L]) ∧ (∃ L : Byte, 128 < L ∧ ([0xFF] : Bytes) = [L]) :=
  ⟨by decide, ready_engine _ _, rfl, ⟨0x00, [], by decide, by decide, rfl⟩,
    ⟨0x7F, List.replicate 127 0x80, by decide, by rw [List.length_replicate]; decide, rfl⟩, ⟨0x81, by decide, rfl⟩,
    ⟨0xFF, by decide, rfl⟩⟩

theorem witness_RunLengthDecodesPackets :
    (∀ p ∈ [RlPacket.lit [1], RlPacket.lit (List.replicate 128 2), RlPacket.rep 2 3, RlPacket.rep 128 4], p.wf = true) ∧
    Ready (engine .runLength none) ∧ fitsParamBits (engine .runLength none).cfg.paramBits (0 : Nat) = true :=
  ⟨by simp [RlPacket.wf], ready_engine _ _, rfl⟩

theorem witness_RoundTrips :
    Ready (engine .runLength none) ∧ Ready (engine .asciiHex none) ∧ Ready (engine .ascii85 none) ∧ Ready (engine .lzw none) :=
  ⟨ready_engine _ _, ready_engine _ _, ready_engine _ _, ready_engine _ _⟩

theorem witness_HexSymbols :
    hexVal 0x66 = some 15 ∧ (engine .asciiHex none).work.hi = none ∧ ((0x00 : Byte) ∈ whiteSpace ∧ (0x20 : Byte) ∈ whiteSpace) ∧
    ({ engine .asciiHex none with work := { Work.initial with hi := some 15 } } : State).work.hi = some 15 ∧
    Unbounded (engine .asciiHex none).cfg := by decide

theorem witness_HexDecodesDigitsAndWhiteSpace :
    (∀ ch ∈ ([0x30, 0x00, 0x46, 0x20, 0x61] : Bytes), ch ∈ whiteSpace ∨ (hexVal ch).isSome = true) ∧
    (0x47 : Byte) ∉ whiteSpace ∧ (0x47 : Byte) ≠ 0x3E ∧ hexVal 0x47 = none ∧ Ready (engine .asciiHex none) ∧
    fitsParamBits (engine .asciiHex none).cfg.paramBits (0 : Nat) = true :=
  ⟨by decide, by decide, by decide, by decide, ready_engine _ _, rfl⟩

/-- An ASCII85 engine with digits of a group held. -/
def holding (group : List Nat) : State :=
  { engine .ascii85 none with work := { Work.initial with group := group } }

theorem witness_Ascii85Symbols :
    (0x21 : Byte) ≤ 0x21 ∧ (0x21 : Byte) ≤ 0x75 ∧ (holding [1, 2, 3]).work.group.length ≠ 4 ∧
    (holding [82, 23, 54, 12]).work.group = [82, 23, 54, 12] ∧ a85Number 82 23 54 12 ((0x21 : Byte).toNat - 33) < 2 ^ 32 ∧
    (holding []).work.group = [] ∧ Unbounded (holding []).cfg ∧
    (holding [0, 0]).work.group = 0 :: 0 :: [] ∧ a85Number 0 0 (([] : List Nat).getD 0 84) (([] : List Nat).getD 1 84) 84 < 2 ^ 32 ∧
    (holding [24, 73, 77, 4]).work.group = 24 :: 73 :: [77, 4] ∧ ([77, 4] : List Nat).length ≤ 2 ∧
    a85Number 24 73 (([77, 4] : List Nat).getD 0 84) (([77, 4] : List Nat).getD 1 84) 84 < 2 ^ 32 := by decide

theorem witness_Ascii85Traps :
    ((Instr.a85Illegal 0x76).wf = true ∧ (Instr.a85Illegal 0x7E).wf = true) ∧
    2 ^ 32 ≤ a85Number 82 23 54 12 ((0x22 : Byte).toNat - 33) ∧ (holding [82, 23, 54, 12]).work.group = [82, 23, 54, 12] ∧
    (holding [24]).work.group ≠ [] ∧ (holding [24]).work.group = [24] ∧
    (holding [84, 84]).work.group = 84 :: 84 :: [] ∧ ([] : List Nat).length ≤ 2 ∧
    2 ^ 32 ≤ a85Number 84 84 (([] : List Nat).getD 0 84) (([] : List Nat).getD 1 84) 84 := by decide

theorem witness_Ascii85MissingTerminator :
    ¬ [0x7E, 0x3E] <:+: ([0x21, 0x7E] : Bytes) ∧ Ready (engine .ascii85 none) ∧
    fitsParamBits (engine .ascii85 none).cfg.paramBits 0 = true :=
  ⟨by decide, ready_engine _ _, rfl⟩

theorem witness_Ascii85DecodesTheBody :
    ¬ [0x7E, 0x3E] <:+: ([0x39, 0x0A, 0x6A, 0x71, 0x6F, 0x5E, 0x7A] : Bytes) ∧
    a85Content (([0x39, 0x0A, 0x6A, 0x71, 0x6F, 0x5E, 0x7A] : Bytes).filter fun c => decide (c ∉ whiteSpace)) =
      some [0x4D, 0x61, 0x6E, 0x20, 0, 0, 0, 0] ∧
    a85Content (([0x39, 0x7A] : Bytes).filter fun c => decide (c ∉ whiteSpace)) = none ∧
    Ready (engine .ascii85 none) ∧ fitsParamBits (engine .ascii85 none).cfg.paramBits (0 : Nat) = true :=
  ⟨by decide, by decide, by decide, ready_engine _ _, rfl⟩

/-- Each case of the Paeth function, the first at a tie. -/
theorem witness_PaethPicksTheNearest :
    (|(255 : Int) + 255 - 255 - 255| ≤ |(255 : Int) + 255 - 255 - 255|) ∧
    (¬ |(0 : Int) + 255 - 0 - 0| ≤ |(0 : Int) + 255 - 0 - 255| ∧ |(0 : Int) + 255 - 0 - 255| ≤ |(0 : Int) + 255 - 0 - 0|) ∧
    (¬ (|(3 : Int) + 5 - 4 - 3| ≤ |(3 : Int) + 5 - 4 - 5| ∧ |(3 : Int) + 5 - 4 - 3| ≤ |(3 : Int) + 5 - 4 - 4|) ∧
      ¬ |(3 : Int) + 5 - 4 - 5| ≤ |(3 : Int) + 5 - 4 - 4|) := by decide

theorem witness_PngRowFilters :
    (.pngNone, 0) ∈ ([(.pngNone, 0), (.pngSub, 1), (.pngUp, 2), (.pngAvg, 3), (.pngPaeth, 4)] : List (Instr × Nat)) ∧
    (.pngPaeth, 4) ∈ ([(.pngNone, 0), (.pngSub, 1), (.pngUp, 2), (.pngAvg, 3), (.pngPaeth, 4)] : List (Instr × Nat)) ∧
    (buffered 15 1 8 2 [4, 7, 9]).work.rowIndex * (1 + rowBytes (buffered 15 1 8 2 [4, 7, 9]).inst) +
      (1 + rowBytes (buffered 15 1 8 2 [4, 7, 9]).inst) ≤ (buffered 15 1 8 2 [4, 7, 9]).work.raw.length := by decide

theorem witness_TiffRowTransform :
    1 ≤ parm (buffered 2 1 8 2 [7, 9]).inst .colors ∧
    (buffered 2 1 8 2 [7, 9]).work.rowIndex * rowBytes (buffered 2 1 8 2 [7, 9]).inst + rowBytes (buffered 2 1 8 2 [7, 9]).inst ≤
      (buffered 2 1 8 2 [7, 9]).work.raw.length := by decide

/-- Whole and broken rows; whole chunks with the tags 0 and 4, a broken chunk, and a tag of 5. -/
theorem witness_PredictorsOnAWholeBuffer :
    Unbounded (buffered 2 1 8 2 []).cfg ∧ GeometryOk (buffered 2 1 8 2 []).inst ∧
    (buffered 2 1 8 2 [1, 2]).work.raw.length % rowBytes (buffered 2 1 8 2 [1, 2]).inst = 0 ∧
    (buffered 2 1 8 2 [1, 2, 3]).work.raw.length % rowBytes (buffered 2 1 8 2 [1, 2, 3]).inst ≠ 0 ∧
    (buffered 10 1 8 1 [0, 2, 4, 3]).work.raw.length % (1 + rowBytes (buffered 10 1 8 1 []).inst) = 0 ∧
    (∀ r, r < (buffered 10 1 8 1 [0, 2, 4, 3]).work.raw.length / (1 + rowBytes (buffered 10 1 8 1 []).inst) →
      (buffered 10 1 8 1 [0, 2, 4, 3]).work.raw.getD (r * (1 + rowBytes (buffered 10 1 8 1 []).inst)) 0 ≤ 4) ∧
    (buffered 10 1 8 1 [0, 2, 4]).work.raw.length % (1 + rowBytes (buffered 10 1 8 1 []).inst) ≠ 0 ∧
    ¬ (buffered 10 1 8 1 [5, 2]).work.raw.getD (0 * (1 + rowBytes (buffered 10 1 8 1 []).inst)) 0 ≤ 4 := by
  unfold GeometryOk; decide

/-- The bytes and codes just outside each class. -/
theorem witness_IllegalSymbolsRaise :
    (0x0B : Byte) ∉ whiteSpace ∧ (0x21 : Byte) ∉ whiteSpace ∧ hexVal 0x2F = none ∧ hexVal 0x67 = none ∧
    ¬ ((0x21 : Byte) ≤ 0x20 ∧ (0x20 : Byte) ≤ 0x75) ∧ ¬ ((0x21 : Byte) ≤ 0x76 ∧ (0x76 : Byte) ≤ 0x75) := by decide

/-- An LZW engine within a stream, with a dictionary (its newest entry first) and a previous string. -/
def coding (table : List Bytes) (prev : Option Bytes) : State :=
  { engine .lzw none with work := { Work.initial with next := 258 + table.length, table := table, prev := prev } }

theorem witness_LzwDataCodes :
    (coding [[1, 2]] (some [2])).work.next ≠ 4096 ∧
    (∃ code : Byte, (.lzwLit 255 : Instr) = .lzwLit code ∧ ([255] : Bytes) = [code]) ∧
    (∃ code : BitVec 12, (.lzwRef 258 : Instr) = .lzwRef code ∧ 258 ≤ code.toNat ∧
      code.toNat < (coding [[1, 2]] (some [2])).work.next ∧
      (coding [[1, 2]] (some [2])).work.table[(coding [[1, 2]] (some [2])).work.next - 1 - code.toNat]? = some [1, 2]) ∧
    (∃ (code : BitVec 12) (p : Bytes), (.lzwKwkwk 259 : Instr) = .lzwKwkwk code ∧
      code.toNat = (coding [[1, 2]] (some [2])).work.next ∧ (coding [[1, 2]] (some [2])).work.prev = some p ∧
      ([2, 2] : Bytes) = p ++ p.take 1) :=
  ⟨by decide, ⟨255, rfl, rfl⟩, ⟨258, rfl, by decide, by decide, rfl⟩, ⟨259, [2], rfl, by decide, rfl, rfl⟩⟩

theorem witness_LzwClearAndEndOfData :
    Unbounded (engine .lzw none).cfg ∧ parm (engine .lzw none).inst .predictor = 1 ∧
    parm (buffered 2 1 8 1 []).inst .predictor ≠ 1 := by decide

theorem witness_LzwBadCodesAreCorrupt :
    ({ engine .lzw none with work := { Work.initial with next := 4096 } } : State).work.next = 4096 ∧
    (coding [] none).work.next ≤ (258 : BitVec 12).toNat ∧ (257 : BitVec 12).toNat < 258 ∧
    (coding [] none).work.prev = none ∧ (259 : BitVec 12).toNat ≠ (coding [] (some [1])).work.next ∧
    258 ≤ (coding [] none).work.next ∧ (coding [] none).work.next < 259 ∧ 258 = (coding [] none).work.next := by decide

theorem witness_LzwRegistersStayInRange :
    LzwOk (coding [[1, 2]] (some [2])).work ∧ (256 : Nat) ≠ 257 ∧ 259 ≤ 4095 ∧
    (lzwString (coding [[1, 2]] (some [2])).work.table.reverse (coding [[1, 2]] (some [2])).work.prev 259).isSome = true ∧
    (lzwString (coding [[1, 2]] (some [2])).work.table.reverse (coding [[1, 2]] (some [2])).work.prev 0).isSome = true ∧
    (coding [[1, 2]] (some [2])).work.width = scheduledWidth (coding [[1, 2]] (some [2])).work.next := by
  refine ⟨?_, by decide, by decide, by decide, by decide, by decide⟩
  unfold LzwOk
  refine ⟨by decide, by decide, by decide, by decide, by decide, ?_⟩
  intro p h; cases h; decide

/-- The stream of 42_lzw.md: a clear code, a literal, the entry about to be defined, the end-of-data code; cut before it; and
with an undefined code. -/
theorem witness_LzwDecodesCodeSequences :
    257 ∉ ([256, 65, 258] : List Nat) ∧ lzwFits 1 [256, 65, 258] = true ∧ Ready (engine .lzw none) ∧
    GeometryOk (engine .lzw none).inst ∧ parm (engine .lzw none).inst .predictor = 1 ∧
    (Ready (buffered 2 1 8 1 []) ∧ GeometryOk (buffered 2 1 8 1 []).inst ∧ parm (buffered 2 1 8 1 []).inst .predictor = 2) ∧
    fitsParamBits (engine .lzw none).cfg.paramBits (0 : Nat) = true ∧
    lzwContent [] none [256, 65, 258] = some [65, 65, 65] ∧
    lzwBits 1 ([256, 65, 258] ++ [257]) <+: bitsOf [0x80, 0x10, 0x60, 0x50, 0x10] ∧
    lzwBits 1 [256, 65, 258] <+: bitsOf [0x80, 0x10, 0x60, 0x50] ∧
    (bitsOf [0x80, 0x10, 0x60, 0x50]).length < (lzwBits 1 ([256, 65, 258] ++ [257])).length ∧
    lzwContent [] none [256, 258] = none ∧ 257 ∉ ([256, 258] : List Nat) ∧ lzwFits 1 [256, 258] = true ∧
    lzwBits 1 [256, 258] <+: bitsOf [0x80, 0x40, 0x80] :=
  ⟨by decide, by decide, ready_engine _ _, geometry_default _, by decide,
    ⟨ready_buffered _ _ _ _ _, by unfold GeometryOk; decide, by decide⟩, rfl, by decide, by decide, by decide, by decide,
    by decide, by decide, by decide, by decide⟩

theorem witness_LzwRoundTrip :
    Ready (engine .lzw none) ∧ ConfigLegal (engine .lzw none).cfg ∧ GeometryOk (engine .lzw none).inst ∧
    parm (engine .lzw none).inst .predictor = 1 := by
  refine ⟨ready_engine _ _, ?_, geometry_default _, by decide⟩
  unfold ConfigLegal
  refine ⟨?_, by decide, by decide, by decide⟩
  intro b h; cases h

theorem witness_LzwRoundTrip_limits :
    ConfigLegal { Config.reference with paramBits := some 32, lzwClearAfter := 1 } := by
  unfold ConfigLegal
  refine ⟨?_, by decide, by decide, by decide⟩
  intro b h; cases h; decide

/-- Both an input of whole rows and one that is not. -/
theorem witness_LzwPredictorTwoTransformsTheExpansion :
    Ready (buffered 2 1 8 3 []) ∧ GeometryOk (buffered 2 1 8 3 []).inst ∧ parm (buffered 2 1 8 3 []).inst .predictor = 2 ∧
    view (exec (.decodeLzw [0x80, 0x10, 0x60, 0x50, 0x10])
      { buffered 2 1 8 3 [] with inst := { (buffered 2 1 8 3 []).inst with predictor := ⟨true, 1⟩ } }) =
      some (.ok, [65, 65, 65]) ∧
    ([65, 65, 65] : Bytes).length % rowBytes (buffered 2 1 8 3 []).inst = 0 ∧
    ([65, 65, 65] : Bytes).length % rowBytes (buffered 2 1 8 2 []).inst ≠ 0 := by
  refine ⟨ready_buffered _ _ _ _ _, ?_, by decide, by decide, by decide, by decide⟩
  unfold GeometryOk; decide

theorem witness_FlateDecodeIsInflateThenPredictor :
    Ready (inflating 15 1 [1] none) ∧ GeometryOk (inflating 15 1 [1] none).inst ∧
    parm (inflating 15 1 [1] none).inst .predictor ∈ ([1, 2, 10, 11, 12, 13, 14, 15] : List Int) ∧
    fitsParamBits (inflating 15 1 [1] none).cfg.paramBits (0 : Nat) = true ∧
    inflate (inflating 15 1 [1] none).cfg [1] = none ∧
    inflate (inflating 1 1 [1] (some [5])).cfg [1] = some [5] ∧ parm (inflating 1 1 [1] (some [5])).inst .predictor = 1 := by
  refine ⟨ready_inflating _ _ _ _, ?_, by decide, rfl, rfl, rfl, by decide⟩
  unfold GeometryOk; decide

/-- Broken buffers: a short last row; an illegal first tag; a short last chunk behind whole ones. -/
theorem witness_FlateDecodeIsInflateThenPredictor_broken :
    parm (inflating 2 2 [1] (some [5])).inst .predictor = 2 ∧
    ([5] : Bytes).length % rowBytes (inflating 2 2 [1] (some [5])).inst ≠ 0 ∧
    (10 : Int) ≤ parm (inflating 10 1 [1] (some [5, 6])).inst .predictor ∧
    0 < ([5, 6] : Bytes).length / (1 + rowBytes (inflating 10 1 [1] (some [5, 6])).inst) ∧
    4 < ([5, 6] : Bytes).getD (0 * (1 + rowBytes (inflating 10 1 [1] (some [5, 6])).inst)) 0 ∧
    (1 : Nat) = ([4, 6, 0] : Bytes).length / (1 + rowBytes (inflating 15 1 [1] (some [4, 6, 0])).inst) ∧
    (∀ q, q < 1 → ([4, 6, 0] : Bytes).getD (q * (1 + rowBytes (inflating 15 1 [1] (some [4, 6, 0])).inst)) 0 ≤ 4) ∧
    ([4, 6, 0] : Bytes).length % (1 + rowBytes (inflating 15 1 [1] (some [4, 6, 0])).inst) ≠ 0 := by decide

theorem witness_FlateEncodeIsDeflateOrRefusal :
    Ready (inflating 1 1 [1] none) ∧ GeometryOk (inflating 1 1 [1] none).inst ∧ parm (inflating 1 1 [1] none).inst .predictor = 1 ∧
    parm (inflating 15 1 [1] none).inst .predictor ∈ ([2, 10, 11, 12, 13, 14, 15] : List Int) := by
  refine ⟨ready_inflating _ _ _ _, ?_, by decide, by decide⟩
  unfold GeometryOk; decide

theorem witness_FlateRoundTrip :
    Ready (inflating 1 1 [1] (some [0x41, 0x42])) ∧ GeometryOk (inflating 1 1 [1] (some [0x41, 0x42])).inst ∧
    parm (inflating 1 1 [1] (some [0x41, 0x42])).inst .predictor = 1 ∧
    inflate (inflating 1 1 [1] (some [0x41, 0x42])).cfg (deflate (inflating 1 1 [1] (some [0x41, 0x42])).cfg [0x41, 0x42]) =
      some [0x41, 0x42] := by
  refine ⟨ready_inflating _ _ _ _, ?_, by decide, rfl⟩
  unfold GeometryOk; decide

theorem witness_NegativeLimitsDecodeEverything :
    (-1 : Int) < 0 ∧ Ready (narrow .lzw) ∧ fitsParamBits (narrow .lzw).cfg.paramBits (-1) = true ∧
    fitsParamBits (narrow .lzw).cfg.paramBits (-2147483648) = true ∧
    ∃ t, exec (decodeDecode .lzw [0x80]) (narrow .lzw) = .next t :=
  ⟨by decide, ready_narrow _, by decide, by decide, ⟨_, rfl⟩⟩

/-- Also the premises of `BoundedDecodeObeysTheRelation`. The trace ends with an error behind two bytes: the relation allows
the error, both bytes, or the first alone. -/
theorem witness_EveryAllowedResultIsReached :
    Ready (engine .runLength none) ∧ fitsParamBits (engine .runLength none).cfg.paramBits (1 : Nat) = true ∧
    traceOf .runLength [0xFF, 0x41] (engine .runLength none) = some ([0x41, 0x41], some .rlTruncated) ∧
    BoundedOk ([0x41, 0x41], some .rlTruncated) 1 (.error .rlTruncated) ∧
    BoundedOk ([0x41, 0x41], some .rlTruncated) 1 (.ok [0x41]) ∧
    BoundedOk ([0x41, 0x41], some .rlTruncated) 2 (.ok [0x41, 0x41]) := by
  refine ⟨ready_engine _ _, rfl, by decide, ?_, ?_, ?_⟩ <;> simp [BoundedOk] <;> decide

theorem witness_ExactBoundedDecodeTruncates :
    Ready (engine .lzw none) ∧ (engine .lzw none).cfg.boundedStop = .exact ∧
    fitsParamBits (engine .lzw none).cfg.paramBits (0 : Nat) = true ∧
    ∃ t, exec (decodeDecode .lzw [0x80]) (engine .lzw none) = .next t :=
  ⟨ready_engine _ _, rfl, rfl, ⟨_, rfl⟩⟩

theorem witness_ResetValues : ({ engine .lzw none with pending := [.reset] } : State).pending = .reset :: [] := rfl

theorem witness_StepKeepsTheInvariant :
    Inv (withCommand ⟨0x03, nameLzw, some [(keyColors, 3)], 0, []⟩ State.reset) ∧
    ∃ t, step (withCommand ⟨0x03, nameLzw, some [(keyColors, 3)], 0, []⟩ State.reset) = .next t := by
  refine ⟨And.intro ?_ ?_, ⟨_, rfl⟩⟩
  · intro k h; cases k <;> exact absurd h (by decide)
  · intro h; exact absurd rfl h

theorem witness_EveryCommandTerminates :
    isCommand (.reservedOp8_15 7 15) = true ∧ isCommand (.decodelenFlate (-1) []) = true ∧ Unbounded State.reset.cfg := by decide

/-- Two engines that agree on the configuration and on INST, and on nothing else. -/
theorem witness_OutcomeDependsOnInstAndCommandOnly :
    isCommand (.encodeLzw [1]) = true ∧
    (engine .lzw none).cfg = ({ engine .lzw none with ip := 5, free := 3, out := [1], status := .refusal .badCommand } : State).cfg ∧
    (engine .lzw none).inst = ({ engine .lzw none with ip := 5, free := 3, out := [1], status := .refusal .badCommand } : State).inst ∧
    ∃ t, exec (.encodeLzw [1]) (engine .lzw none) = .next t :=
  ⟨by decide, rfl, rfl, ⟨_, rfl⟩⟩

theorem witness_OnlyNewfilterWritesInst :
    isCommand .list = true ∧ isQuery .list = true ∧ isNewfilter .list = false ∧ (∃ t, exec .list State.reset = .next t) ∧
    view (exec (.encodeAsciihex [1]) (engine .asciiHex none)) = some (.ok, [0x30, 0x31, 0x3E]) ∧
    (.encodeAsciihex [1] : Instr) = decodeEncode .asciiHex [1] ∧
    view (exec (.decodeAsciihex [0x3E]) (engine .asciiHex none)) = some (.ok, []) ∧
    (.decodeAsciihex [0x3E] : Instr) = decodeDecode .asciiHex [0x3E] ∧
    view (exec (.decodelenAsciihex 0 [0x3E]) (engine .asciiHex none)) = some (.ok, []) ∧
    (.decodelenAsciihex 0 [0x3E] : Instr) = decodeDecodelen .asciiHex 0 [0x3E] :=
  ⟨by decide, by decide, by decide, ⟨_, rfl⟩, by decide, rfl, by decide, rfl, by decide, rfl⟩

theorem witness_SymbolsAppendToOut :
    isCommand .a85Z = false ∧ (∃ t, exec .a85Z (engine .ascii85 none) = .next t) ∧
    (∃ t, exec .a85Z (holding [1]) = .next t) :=
  ⟨by decide, ⟨_, rfl⟩, ⟨_, rfl⟩⟩

end Sys2Proof.Tests
end

section
/-! Reading a parameter of a constructed instance (10_state.md R23): what `mapValue`, `storeParm`, `parmReg`, `hasParm` and
`parm` answer once a map has been stored by `constructInst`. Everything an instance says about a key goes through
`mapValue`, the value of the key in the host's map. -/

namespace Sys2Proof.Proofs.Parameters

open Sys2Proof Sys2Proof.Machine

/-! ## The value of a key in the host's map -/

@[simp] theorem mapValue_absentMap (key : ParmKey) : mapValue none key = none := rfl

@[simp] theorem mapValue_some (m : ParmMap) (key : ParmKey) : mapValue (some m) key = m.lookup key.keyString := rfl

/-- The spelling of the statements: an absent map has no key. -/
theorem mapValue_eq_bind (parms : Option ParmMap) (key : ParmKey) :
    mapValue parms key = parms.bind fun m => m.lookup key.keyString := by
  cases parms <;> rfl

theorem mapValue_cons_of_ne {name : Bytes} {key : ParmKey} (h : name ≠ key.keyString) (v : Int) (m : ParmMap) :
    mapValue (some ((name, v) :: m)) key = mapValue (some m) key := by
  simp [List.lookup_cons, beq_false_of_ne h.symm]

/-! ## The parameter registers after the map is stored (40_registry_factory.md R103) -/

theorem storeParm_of_absent {parms : Option ParmMap} {key : ParmKey} (h : mapValue parms key = none) (old : Parm) :
    storeParm parms key old = ⟨false, old.value⟩ := by
  simp [storeParm, h]

theorem storeParm_of_present {parms : Option ParmMap} {key : ParmKey} {v : Int} (h : mapValue parms key = some v)
    (old : Parm) : storeParm parms key old = ⟨true, v⟩ := by
  simp [storeParm, h]

/-- A parameter register depends on the map through the value of its key only. -/
theorem storeParm_congr {parms parms' : Option ParmMap} {key : ParmKey} (h : mapValue parms key = mapValue parms' key)
    (old : Parm) : storeParm parms key old = storeParm parms' key old := by
  simp [storeParm, h]

@[simp] theorem constructInst_hasMap (k : Kind) (parms : Option ParmMap) (old : Inst) :
    (constructInst k parms old).hasMap = parms.isSome := rfl

@[simp] theorem parmReg_constructInst (k : Kind) (parms : Option ParmMap) (old : Inst) (key : ParmKey) :
    parmReg (constructInst k parms old) key = storeParm parms key (parmReg old key) := by
  cases key <;> rfl

/-- An instance depends on the map through HASMAP and the values of the four keys only. -/
theorem constructInst_congr (k : Kind) (old : Inst) {parms parms' : Option ParmMap}
    (hmap : parms.isSome = parms'.isSome) (h : ∀ key, mapValue parms key = mapValue parms' key) :
    constructInst k parms old = constructInst k parms' old := by
  simp [constructInst, hmap, storeParm_congr (h _)]

/-! ## `HasParm` and `Parm` of a constructed instance -/

/-- A present key has a map to stand in, so HASMAP adds nothing to the PRESENT bit. -/
@[simp] theorem hasParm_constructInst (k : Kind) (parms : Option ParmMap) (old : Inst) (key : ParmKey) :
    hasParm (constructInst k parms old) key = (mapValue parms key).isSome := by
  cases hv : mapValue parms key with
  | none => simp [hasParm, storeParm_of_absent hv]
  | some v =>
    have hmap : parms.isSome = true := by
      cases parms with
      | none => simp at hv
      | some m => rfl
    simp [hasParm, storeParm_of_present hv, hmap]

@[simp] theorem parm_constructInst (k : Kind) (parms : Option ParmMap) (old : Inst) (key : ParmKey) :
    parm (constructInst k parms old) key = (mapValue parms key).getD (parmDefault key) := by
  cases hv : mapValue parms key with
  | none => simp [parm, hv]
  | some v => simp [parm, hv, storeParm_of_present hv]

/-- Settles O14: each clause is `hasParm_constructInst` and `parm_constructInst` at the map's value of the key; a foreign
key leaves that value as it is. -/
theorem parametersAndTheirDefaults : Obligations.ParametersAndTheirDefaults := by
  refine ⟨?present, ?absent, ?absentMap, ?foreign⟩
  case present =>
    intro k m old key v hv
    simp [hv]
  case absent =>
    intro k parms old key hv
    rw [← mapValue_eq_bind] at hv
    refine ⟨by simp [hv], ?_⟩
    rw [parm_constructInst, hv]
    cases key <;> rfl
  case absentMap =>
    intro k old key
    simp
  case foreign =>
    intro k m old name v hname
    exact constructInst_congr k old rfl fun key => mapValue_cons_of_ne (hname key) v m

end Sys2Proof.Proofs.Parameters
end

section
/-! Names of the registry (40_registry_factory.md R102): `classify` is the position of the name among the nine strings, and
as no string stands there twice, a position and the string at it determine each other. -/

namespace Sys2Proof.Proofs.Names

open Sys2Proof

theorem filterNames_length : filterNames.length = 9 := rfl

theorem filterNames_nodup : filterNames.Nodup := by decide

/-- An FID below 9 is a position in the list of names. -/
theorem classify_eq_iff_idxOf_eq {name : Bytes} {k : Nat} (hk : k < 9) :
    classify name = k ↔ filterNames.idxOf name = k := by
  unfold classify
  split <;> omega

theorem classify_of_notMem {name : Bytes} (h : name ∉ filterNames) : classify name = 15 := by
  simp [classify, List.idxOf_of_notMem h, filterNames_length]

/-- In a list without repetition the position of a value is the one it stands at. -/
theorem idxOf_eq_iff_getElem?_eq {α : Type} [BEq α] [LawfulBEq α] {l : List α} (hl : l.Nodup) {a : α} {k : Nat}
    (hk : k < l.length) : l.idxOf a = k ↔ l[k]? = some a := by
  constructor
  · rintro rfl
    exact List.getElem?_idxOf (List.idxOf_lt_length_iff.1 hk)
  · intro h
    obtain ⟨hk', rfl⟩ := List.getElem?_eq_some_iff.1 h
    exact hl.idxOf_getElem k hk'

/-- Settles O10: an FID below 9 is the position of the name in a list of nine different strings. -/
theorem classifyComparesWholeNames : Obligations.ClassifyComparesWholeNames := by
  refine ⟨?native, ?other⟩
  case native =>
    intro name k hk
    rw [classify_eq_iff_idxOf_eq hk]
    exact idxOf_eq_iff_getElem?_eq filterNames_nodup hk
  case other =>
    intro name h
    exact classify_of_notMem h

end Sys2Proof.Proofs.Names
end

section
/-! The validation sequence (40_registry_factory.md R109): `validateParms` is the first failing check of the list `checks`,
what it finds is an error that no `maxLen` hides (47_bounded_decode.md R246), and every rule that begins with it raises
that error in the state it was given. -/

namespace Sys2Proof.Proofs.Validation

open Sys2Proof Sys2Proof.Machine Sys2Proof.Streams

/-! ## `validateParms` and the list of checks -/

theorem isSimple_isPng_eq_false_iff (p : Int) :
    isSimple p = false ∧ isPng p = false ↔ p ∉ ([1, 2, 10, 11, 12, 13, 14, 15] : List Int) := by
  simp [isSimple, isPng]
  omega

theorem isPng_eq_true_iff (p : Int) : isPng p = true ↔ p ∈ ([10, 11, 12, 13, 14, 15] : List Int) := by
  simp [isPng]
  omega

theorem isBpc_eq_false_iff (b : Int) : isBpc b = false ↔ b ∉ ([1, 2, 4, 8, 16] : List Int) := by
  simp [isBpc]

/-- The first failing check of a list is its head, if that fails, or the first failing one behind it. -/
theorem firstFailing_cons (p : Prop) [Decidable p] (e : EngineError) (l : List (Bool × EngineError)) :
    (((decide p, e) :: l).find? (·.1)).map (·.2) = if p then some e else (l.find? (·.1)).map (·.2) := by
  by_cases hp : p <;> simp [hp]

/-- `ValidateParms` finds what R109's list of checks finds first. -/
theorem validateParms_eq_firstFailing (k : Kind) (i : Inst) :
    validateParms k i = ((checks k i).find? (·.1)).map (·.2) := by
  simp only [checks, firstFailing_cons, ← isSimple_isPng_eq_false_iff, ← isPng_eq_true_iff, ← isBpc_eq_false_iff]
  rfl

/-- Each of the five errors of the validation is always reported (47_bounded_decode.md R246). -/
theorem alwaysReported_of_validateParms {k : Kind} {i : Inst} {e : EngineError} (h : validateParms k i = some e) :
    alwaysReported e = true := by
  unfold validateParms at h
  split_ifs at h <;> cases h <;> rfl

/-! ## The rules that begin with the validation -/

section

variable {s : State} {e : EngineError}

theorem lzwDecode_of_failing (h : validateParms .lzw s.inst = some e) : lzwDecode s = .raise e s := by
  simp [lzwDecode, h]

theorem lzwDecodeLazy_of_failing (limit : Int) (h : validateParms .lzw s.inst = some e) :
    lzwDecodeLazy limit s = .raise e s := by
  simp [lzwDecodeLazy, h]

theorem flateDecode_of_failing (h : validateParms .flate s.inst = some e) : flateDecode s = .raise e s := by
  simp [flateDecode, h]

theorem flateDecodeLazy_of_failing (limit : Int) (h : validateParms .flate s.inst = some e) :
    flateDecodeLazy limit s = .raise e s := by
  simp [flateDecodeLazy, h]

theorem flateEncode_of_failing (h : validateParms .flate s.inst = some e) : flateEncode s = .raise e s := by
  simp [flateEncode, h]

end

/-! ## Errors under a limit, and as the end of a data command -/

theorem cutChosen_of_alwaysReported (n : Nat) (c : Option Nat) {e : EngineError} (he : alwaysReported e = true) (s : State) :
    cutChosen n c (.raise e s) = .raise e s := by
  obtain h | ⟨hhidden, -⟩ := cutChosen_raise n c e s
  · exact h
  · simp [he] at hhidden

/-- An always reported error that both decode rules raise is raised at every limit and under every BOUNDED_STOP. -/
theorem boundedDecode_of_alwaysReported (k : Kind) {full : State → Flow} {lazy : Int → State → Flow} {s : State}
    {e : EngineError} (he : alwaysReported e = true) (hfull : full s = .raise e s)
    (hlazy : ∀ limit, lazy limit s = .raise e s) : boundedDecode k full lazy s = .raise e s := by
  obtain hneg | hnonneg := lt_or_ge s.maxLen 0
  · rw [boundedDecode_neg hneg, hfull]
  · obtain ⟨-, h⟩ | ⟨-, h⟩ | ⟨known, -, h⟩ := boundedDecode_nonneg (k := k) (full := full) (lazy := lazy) hnonneg
    · rw [h, hfull]; rfl
    · rw [h, hlazy]
    · rw [h, hlazy, cutChosen_of_alwaysReported _ _ he]

/-- A data command whose rule raises at once ends with that error; of the state before it only IN differs. -/
theorem dataCommand_raises_at_once {input : Bytes} {limit : Option Int} {body : State → Flow} {s : State} {e : EngineError}
    (hs : Ready s) (hlimit : limit.all (fitsParamBits s.cfg.paramBits) = true)
    (hbody : body (startData input limit s) = .raise e (startData input limit s)) :
    ∃ t, dataCommand input limit body s = .next t ∧ FailsAs (.error e) { s with input := input } t := by
  obtain ⟨hvalid, hmaxIn, -⟩ := hs
  refine ⟨endError e (startData input limit s), ?_, rfl⟩
  rw [dataCommand_run (by simp [hmaxIn]) hlimit hvalid, hbody]
  rfl

/-! ## The commands and their traces -/

section

variable {s : State} {e : EngineError}

theorem decodeLzw_fails (input : Bytes) (hs : Ready s) (h : validateParms .lzw s.inst = some e) :
    ∃ t, exec (.decodeLzw input) s = .next t ∧ FailsAs (.error e) { s with input := input } t :=
  dataCommand_raises_at_once hs (by simp) (lzwDecode_of_failing h)

theorem decodelenLzw_fails {n : Int} (input : Bytes) (hs : Ready s) (hn : fitsParamBits s.cfg.paramBits n = true)
    (h : validateParms .lzw s.inst = some e) :
    ∃ t, exec (.decodelenLzw n input) s = .next t ∧ FailsAs (.error e) { s with input := input } t :=
  dataCommand_raises_at_once hs hn
    (boundedDecode_of_alwaysReported .lzw (alwaysReported_of_validateParms h) (lzwDecode_of_failing h)
      fun limit => lzwDecodeLazy_of_failing limit h)

theorem decodeFlate_fails (input : Bytes) (hs : Ready s) (h : validateParms .flate s.inst = some e) :
    ∃ t, exec (.decodeFlate input) s = .next t ∧ FailsAs (.error e) { s with input := input } t :=
  dataCommand_raises_at_once hs (by simp) (flateDecode_of_failing h)

theorem decodelenFlate_fails {n : Int} (input : Bytes) (hs : Ready s) (hn : fitsParamBits s.cfg.paramBits n = true)
    (h : validateParms .flate s.inst = some e) :
    ∃ t, exec (.decodelenFlate n input) s = .next t ∧ FailsAs (.error e) { s with input := input } t :=
  dataCommand_raises_at_once hs hn
    (boundedDecode_of_alwaysReported .flate (alwaysReported_of_validateParms h) (flateDecode_of_failing h)
      fun limit => flateDecodeLazy_of_failing limit h)

theorem encodeFlate_fails (input : Bytes) (hs : Ready s) (h : validateParms .flate s.inst = some e) :
    ∃ t, exec (.encodeFlate input) s = .next t ∧ FailsAs (.error e) { s with input := input } t :=
  dataCommand_raises_at_once hs rfl (flateEncode_of_failing h)

theorem traceOf_lzw_of_failing (input : Bytes) (h : validateParms .lzw s.inst = some e) :
    traceOf .lzw input s = some ([], some e) := by
  have hraise : lazyOf .lzw (-1) (startData input (some (-1)) s) = .raise e (startData input (some (-1)) s) :=
    lzwDecodeLazy_of_failing (-1) h
  rw [traceOf, hraise]
  rfl

theorem traceOf_flate_of_failing (input : Bytes) (h : validateParms .flate s.inst = some e) :
    traceOf .flate input s = some ([], some e) := by
  have hraise : lazyOf .flate (-1) (startData input (some (-1)) s) = .raise e (startData input (some (-1)) s) :=
    flateDecodeLazy_of_failing (-1) h
  rw [traceOf, hraise]
  rfl

end

/-- Settles O16: `validateParms` finds the first failing check, and each of the five commands and both traces begin with
it. -/
theorem firstFailingCheckIsReported : Obligations.FirstFailingCheckIsReported := by
  intro s input n e hs hn
  simp only [← validateParms_eq_firstFailing]
  refine ⟨?commands, traceOf_lzw_of_failing input, traceOf_flate_of_failing input⟩
  case commands =>
    rintro i (⟨rfl | rfl, h⟩ | ⟨rfl | rfl | rfl, h⟩)
    · exact decodeLzw_fails input hs h
    · exact decodelenLzw_fails input hs hn h
    · exact decodeFlate_fails input hs h
    · exact decodelenFlate_fails input hs hn h
    · exact encodeFlate_fails input hs h

end Sys2Proof.Proofs.Validation
end

section
/-! The predictor engine (41_predictor.md). The Paeth function read on the integers; what one row filter and one round of
the TIFF and PNG drivers do; and, by induction over the rounds, what the drivers have done after any number of rows. The
invariants `TiffRowsDone` and `PngRowsDone` say the latter in the words of the statements: the output so far is the
reconstruction of the rows at the front of RAW. -/

namespace Sys2Proof.Proofs.Predictor

open Sys2Proof Sys2Proof.Machine Sys2Proof.Streams

/-! ## The Paeth function (41_predictor.md R130) -/

/-- The model measures distances as natural numbers, the statement as absolute values. -/
theorem abs_le_abs_iff_natAbs_le (x y : Int) : |x| ≤ |y| ↔ x.natAbs ≤ y.natAbs := by
  rw [Int.abs_eq_natAbs, Int.abs_eq_natAbs, Int.ofNat_le]

/-- Settles O33: the three clauses are the three branches of `paeth`. -/
theorem paethPicksTheNearest : Obligations.PaethPicksTheNearest := by
  intro a b c p
  simp only [abs_le_abs_iff_natAbs_le]
  refine ⟨fun nearestA => if_pos nearestA, ?_, ?_⟩
  · rintro ⟨notA, nearestB⟩
    exact (if_neg notA).trans (if_pos nearestB)
  · rintro ⟨notA, notB⟩
    exact (if_neg notA).trans (if_neg notB)

/-! ## Windows of a byte sequence -/

theorem window_append_left {l : Bytes} {a n : Nat} (h : a + n ≤ l.length) (l' : Bytes) :
    ((l ++ l').drop a).take n = (l.drop a).take n := by
  rw [List.drop_append_of_le_length (by omega), List.take_append_of_le_length (by simp; omega)]

theorem window_append_right {l l' : Bytes} {a n : Nat} (ha : a = l.length) (hn : n = l'.length) :
    ((l ++ l').drop a).take n = l' := by
  subst ha hn
  rw [List.drop_left, List.take_length]

theorem getD_take_of_lt {l : Bytes} {i n : Nat} (h : i < n) : (l.take n).getD i 0 = l.getD i 0 := by
  simp [List.getD_eq_getElem?_getD, List.getElem?_take_of_lt h]

/-- Row `r` of `n` rows lies in front of their end. -/
theorem row_end_le {r n : Nat} (h : r < n) (w : Nat) : r * w + w ≤ n * w := by
  rw [← Nat.succ_mul]
  exact Nat.mul_le_mul_right w h

/-! ## Row geometry (40_registry_factory.md R107) -/

theorem bytesPerPixel_pos (i : Inst) : 1 ≤ bytesPerPixel i := Nat.le_max_left _ _

theorem rowBytes_pos {i : Inst} (h : GeometryOk i) : 1 ≤ rowBytes i := by
  obtain ⟨-, -, hcolumns⟩ := h
  exact Nat.mul_pos (by omega) (bytesPerPixel_pos i)

theorem stride_pos {i : Inst} (h : GeometryOk i) : 1 ≤ stride i := by
  obtain ⟨hcolors, -, -⟩ := h
  unfold stride
  omega

/-! ## One row -/

/-- The left neighbour of byte `x`, from the bytes rebuilt before it. -/
theorem leftOf_take {bpp x : Nat} {row : Bytes} (hbpp : 1 ≤ bpp) (hx : x < row.length) :
    leftOf bpp (row.take x) = if bpp ≤ x then row.getD (x - bpp) 0 else 0 := by
  have hlen : (row.take x).length = x := by simp; omega
  rw [leftOf, hlen]
  by_cases h : bpp ≤ x
  · rw [if_pos h, if_neg (by omega), getD_take_of_lt (by omega)]
  · rw [if_neg h, if_pos (by omega)]

theorem aboveOf_eq (prev : Option Bytes) (out : Bytes) : aboveOf prev out = (prev.getD []).getD out.length 0 := by
  cases prev <;> simp [aboveOf]

theorem upperLeftOf_eq (bpp : Nat) (prev : Option Bytes) (out : Bytes) :
    upperLeftOf bpp prev out = if bpp ≤ out.length then (prev.getD []).getD (out.length - bpp) 0 else 0 := by
  cases prev with
  | none => simp [upperLeftOf]
  | some p =>
    by_cases h : bpp ≤ out.length
    · simp [upperLeftOf, h, Nat.not_lt.2 h]
    · simp [upperLeftOf, h, Nat.lt_of_not_le h]

/-- The row filter of a tag: the raw byte plus the tag's term of the three neighbours. -/
def pngFilter (tag bpp : Nat) (prev : Option Bytes) (raw : Bytes) : Bytes :=
  buildRow (fun out r => r + pngTerm tag (leftOf bpp out) (aboveOf prev out) (upperLeftOf bpp prev out)) [] raw

theorem noneRow_eq_pngFilter : noneRow = pngFilter 0 := by
  funext bpp prev raw
  simp [noneRow, pngFilter, pngTerm]

theorem subRow_eq_pngFilter : subRow = pngFilter 1 := rfl

theorem upRow_eq_pngFilter : upRow = pngFilter 2 := rfl

theorem avgRow_eq_pngFilter : avgRow = pngFilter 3 := rfl

theorem paethRow_eq_pngFilter : paethRow = pngFilter 4 := rfl

theorem pngRowOf_pngFilter {bpp : Nat} (hbpp : 1 ≤ bpp) (tag : Nat) (prev : Option Bytes) (raw : Bytes) :
    PngRowOf tag bpp prev raw (pngFilter tag bpp prev raw) := by
  obtain ⟨hlen, hbyte⟩ := buildRow_spec
    (fun out r => r + pngTerm tag (leftOf bpp out) (aboveOf prev out) (upperLeftOf bpp prev out)) raw
  rw [← pngFilter] at hlen hbyte
  refine ⟨hlen, fun x hx => ?_⟩
  have htake : ((pngFilter tag bpp prev raw).take x).length = x := by simp; omega
  rw [hbyte x hx, leftOf_take hbpp (by omega), aboveOf_eq, upperLeftOf_eq, htake]

theorem tiffRowOf_horDiff {colors : Nat} (hcolors : 1 ≤ colors) (raw : Bytes) :
    TiffRowOf colors raw (horDiff colors raw) := by
  obtain ⟨hlen, hbyte⟩ := buildRow_spec
    (fun out r => if out.length < colors then r else r + out.getD (out.length - colors) 0) raw
  rw [← horDiff] at hlen hbyte
  refine ⟨hlen, fun x hx => ?_⟩
  have htake : ((horDiff colors raw).take x).length = x := by simp; omega
  rw [hbyte x hx, htake]
  by_cases h : colors ≤ x
  · rw [if_pos h, if_neg (by omega), getD_take_of_lt (by omega)]
  · rw [if_neg h, if_pos (by omega)]

/-! ## A reconstructed buffer grows by one row -/

theorem tiffBufferOf_nil (rb colors : Nat) : TiffBufferOf rb colors [] [] := by
  simp [TiffBufferOf]

theorem tiffBufferOf_append {rb colors n : Nat} {raw y data row : Bytes} (hrb : 1 ≤ rb) (hraw : raw.length = n * rb)
    (hdata : data.length = rb) (hy : TiffBufferOf rb colors raw y) (hrow : TiffRowOf colors data row) :
    TiffBufferOf rb colors (raw ++ data) (y ++ row) := by
  obtain ⟨hlen, hrows⟩ := hy
  have hrowlen := hrow.1
  have hcount : (raw ++ data).length / rb = n + 1 := by
    rw [List.length_append, hraw, hdata, ← Nat.succ_mul, Nat.mul_div_cancel _ hrb]
  refine ⟨by simp; omega, fun r hr => ?_⟩
  rcases Nat.lt_succ_iff_lt_or_eq.1 (hcount ▸ hr) with hold | rfl
  · have hend := row_end_le hold rb
    rw [window_append_left (by omega), window_append_left (by omega)]
    exact hrows r (by rwa [hraw, Nat.mul_div_cancel _ hrb])
  · rw [window_append_right hraw.symm hdata.symm, window_append_right (by omega) (by omega)]
    exact hrow

/-- The row above row `r` of an output of rows of `rb` bytes; the first has none (41_predictor.md R131). -/
def rowAbove (rb r : Nat) (y : Bytes) : Option Bytes :=
  if r = 0 then none else some ((y.drop ((r - 1) * rb)).take rb)

theorem rowAbove_append_left {rb r n : Nat} {y : Bytes} (hy : y.length = n * rb) (hr : r ≤ n) (row : Bytes) :
    rowAbove rb r (y ++ row) = rowAbove rb r y := by
  cases r with
  | zero => rfl
  | succ r =>
    have hend := row_end_le hr rb
    simp [rowAbove, window_append_left (show r * rb + rb ≤ y.length by omega)]

theorem rowAbove_succ_append {rb n : Nat} {y row : Bytes} (hy : y.length = n * rb) (hrow : row.length = rb) :
    rowAbove rb (n + 1) (y ++ row) = some row := by
  simp [rowAbove, window_append_right hy.symm hrow.symm]

/-- The tags do not count in the output. -/
theorem pngBufferOf_length {rb bpp n : Nat} {raw y : Bytes} (hraw : raw.length = n * (1 + rb))
    (hy : PngBufferOf rb bpp raw y) : y.length = n * rb := by
  obtain ⟨hlen, -⟩ := hy
  rw [hraw, Nat.mul_right_comm] at hlen
  exact Nat.eq_of_mul_eq_mul_right (by omega) hlen

theorem pngBufferOf_nil (rb bpp : Nat) : PngBufferOf rb bpp [] [] := by
  simp [PngBufferOf]

theorem pngBufferOf_append {rb bpp n : Nat} {raw y data row : Bytes} {tag : Byte} (hraw : raw.length = n * (1 + rb))
    (hdata : data.length = rb) (hy : PngBufferOf rb bpp raw y)
    (hrow : PngRowOf tag.toNat bpp (rowAbove rb n y) data row) :
    PngBufferOf rb bpp (raw ++ tag :: data) (y ++ row) := by
  have hylen := pngBufferOf_length hraw hy
  obtain ⟨-, hrows⟩ := hy
  have hrowlen : row.length = rb := hrow.1.trans hdata
  have hnewlen : (raw ++ tag :: data).length = (n + 1) * (1 + rb) := by
    simp only [List.length_append, List.length_cons, hraw, hdata]
    ring
  refine ⟨?_, fun r hr => ?_⟩
  · rw [hnewlen, List.length_append, hylen, hrowlen]
    ring
  rw [hnewlen, Nat.mul_div_cancel _ (by omega)] at hr
  rw [← rowAbove, rowAbove_append_left hylen (by omega)]
  rcases Nat.lt_succ_iff_lt_or_eq.1 hr with hold | rfl
  · have hrawend := row_end_le hold (1 + rb)
    have hyend := row_end_le hold rb
    rw [List.getD_append _ _ _ _ (by omega), window_append_left (by omega), window_append_left (by omega)]
    exact hrows r (by rwa [hraw, Nat.mul_div_cancel _ (by omega)])
  · have hsplit : raw ++ tag :: data = (raw ++ [tag]) ++ data := by simp
    rw [List.getD_append_right _ _ _ _ hraw.le, hraw, Nat.sub_self, window_append_right hylen.symm hrowlen.symm, hsplit,
      window_append_right (by simp [hraw]) hdata.symm]
    exact hrow

/-! ## The rows and chunks of RAW -/

/-- Row `r` of RAW (41_predictor.md R123). -/
def rowAt (s : State) (r : Nat) : Bytes :=
  (s.work.raw.drop (r * rowBytes s.inst)).take (rowBytes s.inst)

/-- The tag of chunk `r` of RAW (41_predictor.md R131). -/
def chunkTag (s : State) (r : Nat) : Byte :=
  s.work.raw.getD (r * (1 + rowBytes s.inst)) 0

/-- The data bytes of chunk `r` of RAW (41_predictor.md R131). -/
def chunkData (s : State) (r : Nat) : Bytes :=
  (s.work.raw.drop (r * (1 + rowBytes s.inst) + 1)).take (rowBytes s.inst)

section
variable {s : State} {r : Nat}

theorem row_le_raw (hr : r < s.work.raw.length / rowBytes s.inst) :
    r * rowBytes s.inst + rowBytes s.inst ≤ s.work.raw.length :=
  (row_end_le hr _).trans (Nat.div_mul_le_self _ _)

theorem chunk_le_raw (hr : r < s.work.raw.length / (1 + rowBytes s.inst)) :
    r * (1 + rowBytes s.inst) + (1 + rowBytes s.inst) ≤ s.work.raw.length :=
  (row_end_le hr _).trans (Nat.div_mul_le_self _ _)

theorem rowAt_length (h : r * rowBytes s.inst + rowBytes s.inst ≤ s.work.raw.length) :
    (rowAt s r).length = rowBytes s.inst := by
  simp [rowAt]; omega

theorem chunkData_length (h : r * (1 + rowBytes s.inst) + (1 + rowBytes s.inst) ≤ s.work.raw.length) :
    (chunkData s r).length = rowBytes s.inst := by
  simp [chunkData]; omega

theorem getElem?_chunk (h : r * (1 + rowBytes s.inst) + (1 + rowBytes s.inst) ≤ s.work.raw.length) :
    s.work.raw[r * (1 + rowBytes s.inst)]? = some (chunkTag s r) := by
  rw [chunkTag, List.getD_eq_getElem _ _ (by omega), List.getElem?_eq_getElem (by omega)]

theorem take_succ_row :
    s.work.raw.take ((r + 1) * rowBytes s.inst) = s.work.raw.take (r * rowBytes s.inst) ++ rowAt s r := by
  rw [Nat.succ_mul, List.take_add, rowAt]

theorem take_succ_chunk (h : r * (1 + rowBytes s.inst) + (1 + rowBytes s.inst) ≤ s.work.raw.length) :
    s.work.raw.take ((r + 1) * (1 + rowBytes s.inst)) =
      s.work.raw.take (r * (1 + rowBytes s.inst)) ++ chunkTag s r :: chunkData s r := by
  rw [Nat.succ_mul, ← Nat.add_assoc, List.take_add, List.take_add_one, getElem?_chunk h, List.append_assoc]
  rfl

end

/-! ## One round of the drivers -/

/-- A whole row at the row index is differenced and emitted. -/
theorem tiffHdiff_of_wholeRow {s : State}
    (h : s.work.rowIndex * rowBytes s.inst + rowBytes s.inst ≤ s.work.raw.length) :
    tiffHdiff s =
      .more
        { s with
          out := s.out ++ horDiff (stride s.inst) (rowAt s s.work.rowIndex)
          work := { s.work with rowIndex := s.work.rowIndex + 1 } } := by
  rw [tiffHdiff, memRead_eq_some.2 ⟨h, rfl⟩]
  rfl

/-- The data bytes of a whole chunk at the row index are filtered and emitted, and become the previous row. -/
theorem pngRow_of_wholeChunk {filter : Nat → Option Bytes → Bytes → Bytes} {s : State} {row : Bytes}
    (h : s.work.rowIndex * (1 + rowBytes s.inst) + (1 + rowBytes s.inst) ≤ s.work.raw.length)
    (hrow : filter (bytesPerPixel s.inst) s.work.prevRow (chunkData s s.work.rowIndex) = row) :
    pngRow filter s =
      .more
        { s with
          out := s.out ++ row
          work := { s.work with prevRow := some row, curRow := row, rowIndex := s.work.rowIndex + 1 } } := by
  have hread : memRead s.work.raw (s.work.rowIndex * (1 + rowBytes s.inst) + 1) (rowBytes s.inst) =
      some (chunkData s s.work.rowIndex) := memRead_eq_some.2 ⟨by omega, rfl⟩
  simp only [pngRow, hread, hrow]
  rfl

/-- A tag up to 4 runs its own filter. -/
theorem pngNext_of_legalTag {s : State}
    (h : s.work.rowIndex * (1 + rowBytes s.inst) + (1 + rowBytes s.inst) ≤ s.work.raw.length)
    (hlegal : chunkTag s s.work.rowIndex ≤ 4) :
    pngNext s = pngRow (pngFilter (chunkTag s s.work.rowIndex).toNat) s := by
  rw [pngNext, getElem?_chunk h]
  generalize chunkTag s s.work.rowIndex = tag at hlegal ⊢
  have hcases : tag = 0 ∨ tag = 1 ∨ tag = 2 ∨ tag = 3 ∨ tag = 4 := by bv_omega
  rcases hcases with rfl | rfl | rfl | rfl | rfl
  · exact congrArg (pngRow · s) noneRow_eq_pngFilter
  · exact congrArg (pngRow · s) subRow_eq_pngFilter
  · exact congrArg (pngRow · s) upRow_eq_pngFilter
  · exact congrArg (pngRow · s) avgRow_eq_pngFilter
  · exact congrArg (pngRow · s) paethRow_eq_pngFilter

theorem pngCases_of_illegalTag {α : Type} {tag : Byte} (h : ¬ tag ≤ 4) (none sub up avg paeth : α)
    (illegal : Byte → α) : pngCases tag none sub up avg paeth illegal = illegal tag := by
  have hcases : tag ≠ 0 ∧ tag ≠ 1 ∧ tag ≠ 2 ∧ tag ≠ 3 ∧ tag ≠ 4 := by bv_omega
  obtain ⟨h0, h1, h2, h3, h4⟩ := hcases
  simp only [pngCases, h0, h1, h2, h3, h4, if_false]

/-- A tag above 4 is E_PREDICTOR_DATA (41_predictor.md R132). -/
theorem pngNext_of_illegalTag {s : State}
    (h : s.work.rowIndex * (1 + rowBytes s.inst) + (1 + rowBytes s.inst) ≤ s.work.raw.length)
    (hillegal : ¬ chunkTag s s.work.rowIndex ≤ 4) : pngNext s = .raise .predictorData s := by
  rw [pngNext, getElem?_chunk h]
  exact pngCases_of_illegalTag hillegal ..

/-! ## Any number of rounds -/

/-- A loop without a limit whose body goes on for `n` rounds reaches, after `m` of them, a state of the indexed invariant
and goes on from there. -/
theorem loop_rounds {body atEnd : State → Flow} {P : Nat → State → Prop} {n : Nat}
    (hround : ∀ r t, r < n → P r t → ∃ t', body t = .more t' ∧ P (r + 1) t') {s : State} (hstart : P 0 s) :
    ∀ m, m ≤ n → ∃ t, P m t ∧ ∀ k, loop (-1) body atEnd (m + k) s = loop (-1) body atEnd k t := by
  intro m
  induction m with
  | zero => exact fun _ => ⟨s, hstart, fun k => by rw [Nat.zero_add]⟩
  | succ m ih =>
    intro hm
    obtain ⟨t, ht, hloop⟩ := ih (by omega)
    obtain ⟨t', hbody, ht'⟩ := hround m t hm ht
    refine ⟨t', ht', fun k => ?_⟩
    calc loop (-1) body atEnd (m + 1 + k) s
        = loop (-1) body atEnd (m + (k + 1)) s := by rw [Nat.add_assoc, Nat.add_comm 1 k]
      _ = loop (-1) body atEnd (k + 1) t := hloop (k + 1)
      _ = loop (-1) body atEnd k t' := loop_step (checkBufLen_neg (by decide)) hbody

/-- `t` is `s` after `r` rows of the TIFF driver: OUT has grown by the reconstruction of the first `r` rows of RAW. -/
def TiffRowsDone (s : State) (r : Nat) (t : State) : Prop :=
  ∃ y, TiffBufferOf (rowBytes s.inst) (stride s.inst) (s.work.raw.take (r * rowBytes s.inst)) y ∧
    t = { s with out := s.out ++ y, work := { s.work with rowIndex := r } }

theorem tiffRowsDone_zero (s : State) : TiffRowsDone s 0 (startRows s) :=
  ⟨[], by simpa using tiffBufferOf_nil _ _, by simp [startRows]⟩

theorem tiffHdiff_rowsDone {s t : State} {r : Nat} (hgeo : GeometryOk s.inst)
    (hr : r < s.work.raw.length / rowBytes s.inst) (ht : TiffRowsDone s r t) :
    ∃ t', tiffHdiff t = .more t' ∧ TiffRowsDone s (r + 1) t' := by
  obtain ⟨y, hy, rfl⟩ := ht
  have hend := row_le_raw hr
  have hfront : (s.work.raw.take (r * rowBytes s.inst)).length = r * rowBytes s.inst := by simp; omega
  have hrow := tiffRowOf_horDiff (stride_pos hgeo) (rowAt s r)
  refine ⟨_, tiffHdiff_of_wholeRow hend, y ++ horDiff (stride s.inst) (rowAt s r), ?_, ?_⟩
  · rw [take_succ_row]
    exact tiffBufferOf_append (rowBytes_pos hgeo) hfront (rowAt_length hend) hy hrow
  · rw [← List.append_assoc]
    rfl

/-- `t` is `s` after `r` chunks of the PNG driver: OUT has grown by the reconstruction of the first `r` chunks of RAW, whose
last row is the previous row. -/
def PngRowsDone (s : State) (r : Nat) (t : State) : Prop :=
  ∃ y cur,
    PngBufferOf (rowBytes s.inst) (bytesPerPixel s.inst) (s.work.raw.take (r * (1 + rowBytes s.inst))) y ∧
    t = { s with
      out := s.out ++ y
      work := { s.work with prevRow := rowAbove (rowBytes s.inst) r y, curRow := cur, rowIndex := r } }

theorem pngRowsDone_zero (s : State) : PngRowsDone s 0 (startRows (startChunks s)) :=
  ⟨[], s.work.curRow, by simpa using pngBufferOf_nil _ _, by simp [startRows, startChunks, rowAbove]⟩

theorem pngNext_rowsDone {s t : State} {r : Nat} (hr : r < s.work.raw.length / (1 + rowBytes s.inst))
    (hlegal : chunkTag s r ≤ 4) (ht : PngRowsDone s r t) : ∃ t', pngNext t = .more t' ∧ PngRowsDone s (r + 1) t' := by
  obtain ⟨y, cur, hy, rfl⟩ := ht
  have hend := chunk_le_raw hr
  have hfront : (s.work.raw.take (r * (1 + rowBytes s.inst))).length = r * (1 + rowBytes s.inst) := by simp; omega
  have hrow := pngRowOf_pngFilter (bytesPerPixel_pos s.inst) (chunkTag s r).toNat (rowAbove (rowBytes s.inst) r y)
    (chunkData s r)
  generalize heq : pngFilter _ _ _ _ = row at hrow
  refine ⟨_, (pngNext_of_legalTag hend hlegal).trans (pngRow_of_wholeChunk hend heq), y ++ row, row, ?_, ?_⟩
  · rw [take_succ_chunk hend]
    exact pngBufferOf_append hfront (chunkData_length hend) hy hrow
  · rw [rowAbove_succ_append (pngBufferOf_length hfront hy) (hrow.1.trans (chunkData_length hend)), ← List.append_assoc]

/-- After the first `m` chunks, whose tags are legal, the PNG driver goes on behind their reconstruction. -/
theorem pngRows_loop {s : State} {atEnd : State → Flow} {m : Nat} (hm : m ≤ s.work.raw.length / (1 + rowBytes s.inst))
    (hlegal : ∀ r, r < m → chunkTag s r ≤ 4) :
    ∃ t, PngRowsDone s m t ∧
      ∀ k, loop (-1) pngNext atEnd (m + k) (startRows (startChunks s)) = loop (-1) pngNext atEnd k t :=
  loop_rounds (fun r _ hr ht => pngNext_rowsDone (hr.trans_le hm) (hlegal r hr) ht) (pngRowsDone_zero s) m le_rfl

/-- After the first `m` rows the TIFF driver goes on behind their reconstruction. -/
theorem tiffRows_loop {s : State} {atEnd : State → Flow} (hgeo : GeometryOk s.inst) {m : Nat}
    (hm : m ≤ s.work.raw.length / rowBytes s.inst) :
    ∃ t, TiffRowsDone s m t ∧
      ∀ k, loop (-1) tiffHdiff atEnd (m + k) (startRows s) = loop (-1) tiffHdiff atEnd k t :=
  loop_rounds (fun _ _ hr ht => tiffHdiff_rowsDone hgeo (hr.trans_le hm) ht) (tiffRowsDone_zero s) m le_rfl

/-! ## The whole buffer -/

/-- Without a row capacity the drivers run their loop. -/
theorem rowLoop_of_unbounded {s : State} (h : Unbounded s.cfg) (frame : Nat) (limit : Int) (body atEnd : State → Flow) :
    rowLoop frame limit body atEnd s = loop limit body atEnd (s.work.raw.length / frame) (startRows s) := by
  obtain ⟨-, -, hmaxRow, -⟩ := h
  simp [rowLoop, hmaxRow]

/-- A buffer of whole rows is transformed to its end. -/
theorem predTiff_of_wholeRows {s : State} (hcap : Unbounded s.cfg) (hgeo : GeometryOk s.inst)
    (hwhole : s.work.raw.length % rowBytes s.inst = 0) :
    ∃ t, predTiff s = .stop t ∧ TiffRowsDone s (s.work.raw.length / rowBytes s.inst) t := by
  obtain ⟨t, hdone, hloop⟩ := tiffRows_loop (atEnd := Flow.stop) hgeo (Nat.le_refl (s.work.raw.length / rowBytes s.inst))
  refine ⟨t, ?_, hdone⟩
  rw [predTiff, tiffBuffer, tiffFrame, if_pos hwhole, rowLoop_of_unbounded hcap, ← Nat.add_zero (_ / _), hloop 0]
  exact if_pos (checkBufLen_neg (by decide))

theorem predTiff_of_brokenRow {s : State} (hbroken : s.work.raw.length % rowBytes s.inst ≠ 0) :
    predTiff s = .raise .predictorData s :=
  if_neg hbroken

/-- The PNG driver on a buffer of whole chunks is its loop. -/
theorem predPng_eq_loop {s : State} (hcap : Unbounded s.cfg) (hwhole : s.work.raw.length % (1 + rowBytes s.inst) = 0) :
    predPng s =
      loop (-1) pngNext Flow.stop (s.work.raw.length / (1 + rowBytes s.inst)) (startRows (startChunks s)) := by
  rw [predPng, pngBuffer, pngFrame, if_pos hwhole]
  exact rowLoop_of_unbounded (s := startChunks s) hcap _ _ _ _

/-- A buffer of whole chunks with legal tags is reconstructed to its end. -/
theorem predPng_of_legalTags {s : State} (hcap : Unbounded s.cfg) (hwhole : s.work.raw.length % (1 + rowBytes s.inst) = 0)
    (hlegal : ∀ r, r < s.work.raw.length / (1 + rowBytes s.inst) → chunkTag s r ≤ 4) :
    ∃ t, predPng s = .stop t ∧ PngRowsDone s (s.work.raw.length / (1 + rowBytes s.inst)) t := by
  obtain ⟨t, hdone, hloop⟩ := pngRows_loop (atEnd := Flow.stop) le_rfl hlegal
  refine ⟨t, ?_, hdone⟩
  rw [predPng_eq_loop hcap hwhole, ← Nat.add_zero (_ / _), hloop 0]
  exact if_pos (checkBufLen_neg (by decide))

theorem predPng_of_brokenChunk {s : State} (hbroken : s.work.raw.length % (1 + rowBytes s.inst) ≠ 0) :
    predPng s = .raise .predictorData s :=
  if_neg hbroken

/-- At the first illegal tag the driver raises, behind the rows of the chunks before it. -/
theorem predPng_of_firstIllegalTag {s : State} {m : Nat} (hcap : Unbounded s.cfg)
    (hwhole : s.work.raw.length % (1 + rowBytes s.inst) = 0) (hm : m < s.work.raw.length / (1 + rowBytes s.inst))
    (hlegal : ∀ r, r < m → chunkTag s r ≤ 4) (hillegal : ¬ chunkTag s m ≤ 4) :
    ∃ t, predPng s = .raise .predictorData t ∧ PngRowsDone s m t := by
  obtain ⟨t, hdone, hloop⟩ := pngRows_loop (atEnd := Flow.stop) hm.le hlegal
  refine ⟨t, ?_, hdone⟩
  obtain ⟨y, cur, -, rfl⟩ := hdone
  obtain ⟨k, hk⟩ := Nat.exists_eq_add_of_lt hm
  rw [predPng_eq_loop hcap hwhole, hk, Nat.add_assoc, hloop (k + 1)]
  exact loop_end (checkBufLen_neg (by decide)) (pngNext_of_illegalTag (chunk_le_raw hm) hillegal) (by simp)

/-- A buffer that is broken or holds an illegal tag raises, with nothing but OUT and WORK written. -/
theorem predPng_raises {s : State} (hcap : Unbounded s.cfg)
    (hbad : ¬ (s.work.raw.length % (1 + rowBytes s.inst) = 0 ∧
      ∀ r, r < s.work.raw.length / (1 + rowBytes s.inst) → chunkTag s r ≤ 4)) :
    ∃ out work, predPng s = .raise .predictorData { s with out := out, work := work } := by
  by_cases hwhole : s.work.raw.length % (1 + rowBytes s.inst) = 0
  · have hex : ∃ r, r < s.work.raw.length / (1 + rowBytes s.inst) ∧ ¬ chunkTag s r ≤ 4 := by
      by_contra hnone
      push Not at hnone
      exact hbad ⟨hwhole, hnone⟩
    obtain ⟨hm, hillegal⟩ := Nat.find_spec hex
    have hlegal : ∀ r, r < Nat.find hex → chunkTag s r ≤ 4 := fun r hr =>
      not_not.1 fun h => Nat.find_min hex hr ⟨hr.trans hm, h⟩
    obtain ⟨t, hraise, y, cur, -, rfl⟩ := predPng_of_firstIllegalTag hcap hwhole hm hlegal hillegal
    exact ⟨_, _, hraise⟩
  · exact ⟨s.out, s.work, predPng_of_brokenChunk hwhole⟩

/-! ## The instructions -/

theorem settleSymbol_stop {t : State} (h : Unbounded t.cfg) : settleSymbol (.stop t) = .next (endOk t) := by
  obtain ⟨-, hmaxOut, -, -⟩ := h
  simp [settleSymbol, hmaxOut]

/-- PRED.PNG10 to PRED.PNG15 decode alike (41_predictor.md R133). -/
theorem exec_predPng {i : Instr}
    (h : i ∈ ([.predPng10, .predPng11, .predPng12, .predPng13, .predPng14, .predPng15] : List Instr)) (s : State) :
    exec i s = settleSymbol (predPng s) := by
  simp only [List.mem_cons, List.not_mem_nil, or_false] at h
  rcases h with rfl | rfl | rfl | rfl | rfl | rfl <;> rfl

/-- Settles O36: the drivers' rounds reconstruct the buffer row by row (`predTiff_of_wholeRows`, `predPng_of_legalTags`), and
a buffer they cannot finish raises (`predTiff_of_brokenRow`, `predPng_raises`). -/
theorem predictorsOnAWholeBuffer : Obligations.PredictorsOnAWholeBuffer := by
  intro s hcap hgeo
  refine ⟨⟨_, settleSymbol_stop hcap, rfl⟩, ?tiff, ?tiffBroken, fun i hi => ⟨?png, ?pngBad⟩⟩
  case tiff =>
    intro hwhole
    obtain ⟨t, hstop, y, hy, rfl⟩ := predTiff_of_wholeRows hcap hgeo hwhole
    rw [Nat.div_mul_cancel (Nat.dvd_of_mod_eq_zero hwhole), List.take_length] at hy
    exact ⟨_, y, (congrArg settleSymbol hstop).trans (settleSymbol_stop hcap), hy, rfl, rfl⟩
  case tiffBroken =>
    intro hbroken
    exact ⟨_, congrArg settleSymbol (predTiff_of_brokenRow hbroken), failsAs_endError _ s⟩
  case png =>
    rintro ⟨hwhole, hlegal⟩
    obtain ⟨t, hstop, y, cur, hy, rfl⟩ := predPng_of_legalTags hcap hwhole hlegal
    rw [Nat.div_mul_cancel (Nat.dvd_of_mod_eq_zero hwhole), List.take_length] at hy
    exact ⟨_, y, (exec_predPng hi s).trans ((congrArg settleSymbol hstop).trans (settleSymbol_stop hcap)), hy, rfl, rfl⟩
  case pngBad =>
    intro hbad
    obtain ⟨out, work, hraise⟩ := predPng_raises hcap hbad
    exact ⟨_, (exec_predPng hi s).trans (congrArg settleSymbol hraise), rfl⟩

end Sys2Proof.Proofs.Predictor
end

section
/-! Bit fields (20_memory.md R53). The bits of a byte sequence are its `bitAt` in order, so that `BitRead` reads a window of
`bitsOf`; and what `BitWrite` has written, OUT and the bits pending behind it, only grows. -/

namespace Sys2Proof.Proofs.Bits

open Sys2Proof Sys2Proof.Machine Sys2Proof.Streams

/-! ## Reading -/

@[simp] theorem numberBits_length (v w : Nat) : (numberBits v w).length = w := natToBits_length v w

@[simp] theorem bitsOf_cons (b : Byte) (l : Bytes) :
    bitsOf (b :: l) = ((List.range 8).map fun j => b.getLsbD (7 - j)) ++ bitsOf l := rfl

@[simp] theorem bitsOf_append (l l' : Bytes) : bitsOf (l ++ l') = bitsOf l ++ bitsOf l' := List.flatMap_append

@[simp] theorem bitsOf_length (l : Bytes) : (bitsOf l).length = 8 * l.length := by
  induction l with
  | nil => rfl
  | cons b l ih => rw [bitsOf_cons, List.length_append, ih, List.length_cons, List.length_map, List.length_range]; omega

theorem bitAt_cons_of_lt {p : Nat} (hp : p < 8) (b : Byte) (l : Bytes) : bitAt (b :: l) p = b.getLsbD (7 - p) := by
  simp [bitAt, Nat.div_eq_of_lt hp, Nat.mod_eq_of_lt hp]

theorem bitAt_cons_add_eight (p : Nat) (b : Byte) (l : Bytes) : bitAt (b :: l) (8 + p) = bitAt l p := by
  simp [bitAt, Nat.add_div_left]

theorem bitsOf_eq_map_bitAt (l : Bytes) : bitsOf l = (List.range (8 * l.length)).map (bitAt l) := by
  induction l with
  | nil => rfl
  | cons b l ih =>
    rw [bitsOf_cons, ih, List.length_cons, Nat.mul_succ, Nat.add_comm, List.range_add, List.map_append, List.map_map]
    refine congrArg₂ (· ++ ·) ?_ ?_
    · exact List.map_congr_left fun j hj => (bitAt_cons_of_lt (List.mem_range.1 hj) b l).symm
    · exact List.map_congr_left fun p _ => (bitAt_cons_add_eight p b l).symm

/-- The bits `BitRead` looks at are a window of the bits of the sequence. -/
theorem map_bitAt_eq_window {l : Bytes} {bp w : Nat} (h : bp + w ≤ 8 * l.length) :
    ((List.range w).map fun j => bitAt l (bp + j)) = ((bitsOf l).drop bp).take w := by
  rw [bitsOf_eq_map_bitAt]
  refine List.ext_getElem (by simp; omega) fun j _ _ => ?_
  simp

/-- `BitRead` reads the number whose bits stand at the cursor. -/
theorem bitRead_of_prefix {l : Bytes} {front : List Bool} {c w : Nat} (h : front ++ numberBits c w <+: bitsOf l)
    (hc : c < 2 ^ w) : bitRead l front.length w = some c := by
  have hlen := h.length_le
  rw [List.length_append, numberBits_length, bitsOf_length] at hlen
  obtain ⟨rest, hrest⟩ := h
  refine bitRead_eq_some.2 ⟨hlen, ?_⟩
  rw [map_bitAt_eq_window hlen, ← hrest, List.append_assoc, List.drop_left, List.take_left' (numberBits_length c w)]
  exact (bitsToNat_natToBits hc).symm

/-! ## Writing -/

theorem bitsOf_byte (b7 b6 b5 b4 b3 b2 b1 b0 : Bool) :
    bitsOf [BitVec.ofNat 8 (bitsToNat [b7, b6, b5, b4, b3, b2, b1, b0])] = [b7, b6, b5, b4, b3, b2, b1, b0] := by
  revert b7 b6 b5 b4 b3 b2 b1 b0
  decide

/-- Cutting a bit list into bytes loses no bit. -/
theorem bitsOf_wholeBytes_append_bitsLeft (bits : List Bool) : bitsOf (wholeBytes bits) ++ bitsLeft bits = bits := by
  induction bits using wholeBytes.induct with
  | case1 b7 b6 b5 b4 b3 b2 b1 b0 rest ih =>
    have hleft : bitsLeft (b7 :: b6 :: b5 :: b4 :: b3 :: b2 :: b1 :: b0 :: rest) = bitsLeft rest := by
      have hcount : 8 * ((rest.length + 8) / 8) = 8 * (rest.length / 8) + 8 := by omega
      simp [bitsLeft, hcount]
    rw [hleft, wholeBytes, ← List.singleton_append, bitsOf_append, bitsOf_byte, List.append_assoc, ih]
    rfl
  | case2 bits hshort =>
    have hnone : wholeBytes bits = [] := wholeBytes.eq_2 bits hshort
    have hlen : bits.length / 8 = 0 := by rw [← wholeBytes_length, hnone]; rfl
    rw [hnone, bitsLeft, hlen]
    rfl

/-- All bits written so far: those of OUT, and those that wait for a whole byte. -/
def written (s : State) : List Bool :=
  bitsOf s.out ++ s.work.bitbuf

theorem written_putBits (bits : List Bool) (s : State) : written (putBits bits s) = written s ++ bits := by
  simp only [written, putBits, emit_out, bitsOf_append, List.append_assoc, bitsOf_wholeBytes_append_bitsLeft]

theorem written_bitWrite (v w : Nat) (s : State) : written (bitWrite v w s) = written s ++ numberBits v w :=
  written_putBits _ s

/-- After padding no bit waits: OUT holds all that was written. -/
theorem bitsOf_out_padBits (s : State) : bitsOf (padBits s).out = written (padBits s) := by
  have hempty : (padBits s).work.bitbuf = [] := by
    refine List.eq_nil_of_length_eq_zero ?_
    simp only [padBits, putBits, bitsLeft_length, List.length_append, List.length_replicate]
    omega
  rw [written, hempty, List.append_nil]

/-- Padding keeps what was written. -/
theorem written_prefix_padBits (s : State) : written s <+: bitsOf (padBits s).out := by
  rw [bitsOf_out_padBits, padBits, written_putBits]
  exact List.prefix_append _ _

end Sys2Proof.Proofs.Bits
end

section
/-! The expansion of an LZW stream (42_lzw.md R142 to R152). `Expansion` is what the decoder knows between two codes, in the
words of the statements: the dictionary listed from entry 258 on, and the content so far; `reached s e` is the decoder's
state there. Each code leads from one `Expansion` to the next (`clear`, `append`), whatever engine it is read on, so that a
run over many codes (`Reads`) is followed on `Expansion` alone. -/

namespace Sys2Proof.Proofs.LzwExpansion

open Sys2Proof Sys2Proof.Machine Sys2Proof.Streams Sys2Proof.Proofs.Bits

/-- The decoder between two codes: bit cursor, dictionary, previous string, and the content expanded so far. -/
structure Expansion where
  bp : Nat
  table : List Bytes
  prev : Option Bytes
  content : Bytes

namespace Expansion

/-- Before the first code. -/
def start : Expansion := ⟨0, [], none, []⟩

/-- The place of the next code since the last clear, counted from 1 (30_encoding.md R83). -/
def place (e : Expansion) : Nat :=
  e.table.length + if e.prev.isSome then 2 else 1

/-- The width of the next code. -/
def width (e : Expansion) : Nat :=
  codeWidth e.place

/-- The next code is read, and has no effect yet. -/
def pass (e : Expansion) : Expansion :=
  { e with bp := e.bp + e.width }

/-- The next code is the clear code. -/
def clear (e : Expansion) : Expansion :=
  ⟨e.bp + e.width, [], none, e.content⟩

/-- The next code is a data code that stands for `str`. -/
def append (str : Bytes) (e : Expansion) : Expansion :=
  ⟨e.bp + e.width, lzwTable e.table e.prev str, some str, e.content ++ str⟩

/-- The working registers of 10_state.md R32 as the expansion has them. -/
def load (e : Expansion) (w : Work) : Work :=
  { w with
    bp := e.bp
    width := e.width
    next := 258 + e.table.length
    prev := e.prev
    table := e.table.reverse }

theorem nine_le_codeWidth (n : Nat) : 9 ≤ codeWidth n := by
  unfold codeWidth; split_ifs <;> omega

theorem codeWidth_le_twelve (n : Nat) : codeWidth n ≤ 12 := by
  unfold codeWidth; split_ifs <;> omega

/-- The early-change test of 42_lzw.md R151 behind the `n`-th code is the step of `W` from `n` to `n + 1`. -/
theorem codeWidth_succ (n : Nat) :
    codeWidth (n + 1) =
      if codeWidth n < 12 ∧ 2 ^ codeWidth n ≤ 257 + n + 1 then codeWidth n + 1 else codeWidth n := by
  unfold codeWidth
  split_ifs <;> omega

@[simp] theorem place_start : start.place = 1 := rfl

@[simp] theorem place_clear (e : Expansion) : e.clear.place = 1 := rfl

@[simp] theorem place_append (str : Bytes) (e : Expansion) : (e.append str).place = e.place + 1 := by
  unfold place append lzwTable
  cases e.prev <;> simp

/-- The dictionary grows by the entry of 42_lzw.md R148, at the index `next`. -/
theorem lzwGrow_load (str : Bytes) (e : Expansion) (w : Work) :
    lzwGrow str (e.pass.load w) = { (e.append str).load w with width := e.width } := by
  cases hprev : e.prev with
  | none => simp [lzwGrow, load, pass, append, lzwTable, hprev, width, place]
  | some p => simp [lzwGrow, load, pass, append, lzwTable, hprev, width, place, Nat.add_assoc]

theorem lzwWiden_eq (w : Work) :
    lzwWiden w =
      { w with width := if w.width < 12 ∧ 2 ^ w.width ≤ w.next + 1 then w.width + 1 else w.width } := by
  unfold lzwWiden; split <;> rfl

/-- Behind the code at the place `n`, `next` is `257 + n`. -/
theorem next_append (str : Bytes) (e : Expansion) : 258 + (e.append str).table.length = 257 + e.place := by
  unfold append place lzwTable
  cases e.prev <;> simp <;> omega

/-- Dictionary, previous string and width change as the code's string and place say (42_lzw.md R148, R151). -/
theorem lzwWiden_lzwGrow_load (str : Bytes) (e : Expansion) (w : Work) :
    lzwWiden (lzwGrow str (e.pass.load w)) = (e.append str).load w := by
  have hwidth : (e.append str).width =
      if e.width < 12 ∧ 2 ^ e.width ≤ 257 + e.place + 1 then e.width + 1 else e.width := by
    rw [width, place_append, codeWidth_succ]; rfl
  rw [lzwGrow_load, lzwWiden_eq]
  simp only [load, hwidth, next_append]

end Expansion

open Expansion

/-! ## The decoder's state -/

/-- The state of a decode that began at `s` and has come to `e`. -/
def reached (s : State) (e : Expansion) : State :=
  { lzwEmit e.content s with work := e.load (lzwEmit e.content s).work }

section
variable (s : State) (e : Expansion)

@[simp] theorem reached_input : (reached s e).input = s.input := lzwEmit_input _ _
@[simp] theorem reached_inst : (reached s e).inst = s.inst := lzwEmit_inst _ _
@[simp] theorem reached_cfg : (reached s e).cfg = s.cfg := lzwEmit_cfg _ _
@[simp] theorem reached_pending : (reached s e).pending = s.pending := lzwEmit_pending _ _
@[simp] theorem reached_next : (reached s e).work.next = 258 + e.table.length := rfl
@[simp] theorem reached_table : (reached s e).work.table = e.table.reverse := rfl

/-- With Predictor 1 the content stands in OUT (42_lzw.md R153). -/
theorem reached_out_of_one (h : parm s.inst .predictor = 1) : (reached s e).out = s.out ++ e.content :=
  (lzwEmit_out _ _).trans (if_pos h)

/-- With another predictor OUT is untouched and the content stands in RAW (42_lzw.md R153). -/
theorem reached_out_of_ne_one (h : parm s.inst .predictor ≠ 1) : (reached s e).out = s.out :=
  (lzwEmit_out _ _).trans (if_neg h)

theorem reached_raw_of_ne_one (h : parm s.inst .predictor ≠ 1) : (reached s e).work.raw = s.work.raw ++ e.content := by
  have hraw : (reached s e).work.raw = (lzwEmit e.content s).work.raw := rfl
  rw [hraw, lzwEmit_work, if_neg h]

theorem lzwEmit_nil : lzwEmit [] s = s := by
  unfold lzwEmit
  split <;> simp [emit]

/-- A decode begins in the state its command starts in. -/
theorem reached_start (h : s.work = Work.initial) : reached s start = s := by
  have hcontent : start.content = [] := rfl
  have hload : start.load s.work = s.work := by rw [h]; rfl
  rw [reached, hcontent, lzwEmit_nil, hload]

theorem lzwEmit_of_one {l : Bytes} {s : State} (h : parm s.inst .predictor = 1) : lzwEmit l s = emit l s :=
  if_pos h

theorem lzwEmit_of_ne_one {l : Bytes} {s : State} (h : parm s.inst .predictor ≠ 1) :
    lzwEmit l s = { s with work := { s.work with raw := s.work.raw ++ l } } :=
  if_neg h

theorem lzwEmit_reached (str : Bytes) :
    lzwEmit str (reached s e) = reached s { e with content := e.content ++ str } := by
  by_cases h : parm s.inst .predictor = 1
  · rw [lzwEmit_of_one (by rwa [reached_inst]), reached, reached, lzwEmit_of_one h, lzwEmit_of_one h]
    simp only [emit, List.append_assoc]
    rfl
  · rw [lzwEmit_of_ne_one (by rwa [reached_inst]), reached, reached, lzwEmit_of_ne_one h, lzwEmit_of_ne_one h]
    simp only [load, List.append_assoc]
    rfl

/-! ## One code -/

/-- A data code's string is emitted and its entry defined. -/
theorem lzwData_reached (hfull : e.table.length ≠ 3838) (str : Bytes) :
    lzwData str (reached s e.pass) = .more (reached s (e.append str)) := by
  have hnext : (reached s e.pass).work.next ≠ 4096 := by
    have htable : e.pass.table = e.table := rfl
    rw [reached_next, htable]; omega
  have hwork := lzwWiden_lzwGrow_load str e (lzwEmit (e.content ++ str) s).work
  rw [lzwData, if_neg hnext, lzwEmit_reached]
  exact congrArg (fun w => Flow.more { lzwEmit (e.content ++ str) s with work := w }) hwork

end

/-- The classes of a code that names a string (42_lzw.md R146 to R148). -/
theorem lzwString_eq_some {table : List Bytes} {prev : Option Bytes} {c : Nat} {str : Bytes}
    (h : lzwString table prev c = some str) :
    table.length ≠ 3838 ∧
      ((c < 256 ∧ str = [BitVec.ofNat 8 c]) ∨
        (¬ c < 256 ∧ c < 258 + table.length ∧ table[c - 258]? = some str) ∨
          (¬ c < 256 ∧ c = 258 + table.length ∧ ∃ p, prev = some p ∧ str = p ++ p.take 1)) := by
  unfold lzwString at h
  split_ifs at h with hfull hlit href hnew
  · exact ⟨hfull, .inl ⟨hlit, by simpa [eq_comm] using h⟩⟩
  · exact ⟨hfull, .inr (.inl ⟨hlit, href, h⟩)⟩
  · exact ⟨hfull, .inr (.inr ⟨hlit, hnew, by simpa [eq_comm] using h⟩)⟩

/-- The classes of a code that names none (42_lzw.md R149, R152). -/
theorem lzwString_eq_none {table : List Bytes} {prev : Option Bytes} {c : Nat} (h256 : c ≠ 256) (h257 : c ≠ 257)
    (h : lzwString table prev c = none) :
    table.length = 3838 ∨
      (¬ c < 256 ∧ ¬ c < 258 + table.length ∧ ¬ (c = 258 + table.length ∧ prev.isSome = true)) := by
  unfold lzwString at h
  split_ifs at h with hfull hlit href hnew
  · exact .inl hfull
  · rw [List.getElem?_eq_none_iff] at h; omega
  · exact .inr ⟨hlit, href, by simp_all⟩
  · exact .inr ⟨hlit, href, fun hc => hnew hc.1⟩

section
variable {s : State} {e : Expansion} {c : Nat} {atEod : State → Flow}

/-- The entry of a code in the decoder's table, which lists the newest first. -/
theorem tableEntry_reached {str : Bytes} (h258 : 258 ≤ c) (hlt : c < 258 + e.table.length)
    (h : e.table[c - 258]? = some str) : tableEntry (reached s e).work c = some str := by
  have hindex : e.table.length - 1 - (258 + e.table.length - 1 - c) = c - 258 := by omega
  rw [tableEntry, reached_next, reached_table, if_pos ⟨h258, hlt⟩, List.getElem?_reverse (by omega), hindex, h]

/-- Where fewer bits are left than the code has, the stream is truncated (42_lzw.md R144). -/
theorem lzwNext_cut (h : 8 * s.input.length < e.bp + e.width) :
    lzwNext atEod (reached s e) = .raise .lzwCorrupt (reached s e) := by
  have hread : bitRead (reached s e).input (reached s e).work.bp (reached s e).work.width = none := by
    rw [reached_input]
    exact bitRead_eq_none.2 h
  rw [lzwNext, hread]

/-- A code that is there is dispatched by its class. -/
theorem lzwNext_read (h : bitRead s.input e.bp e.width = some c) :
    lzwNext atEod (reached s e) =
      lzwCases (258 + e.table.length) e.prev.isSome c (fun b => lzwLit b (reached s e.pass))
        (lzwClear (reached s e.pass)) (atEod (reached s e.pass)) (fun code => lzwRef code (reached s e.pass))
        (fun code => lzwKwkwk code (reached s e.pass)) (fun code => lzwIllegal code (reached s e.pass)) := by
  have hread : bitRead (reached s e).input (reached s e).work.bp (reached s e).work.width = some c := by
    rw [reached_input]
    exact h
  rw [lzwNext, hread]
  rfl

theorem lzwNext_clear (h : bitRead s.input e.bp e.width = some 256) :
    lzwNext atEod (reached s e) = .more (reached s e.clear) := by
  rw [lzwNext_read h]
  rfl

theorem lzwNext_eod (h : bitRead s.input e.bp e.width = some 257) :
    lzwNext atEod (reached s e) = atEod (reached s e.pass) := by
  rw [lzwNext_read h]
  rfl

theorem lt_of_bitRead_width (h : bitRead s.input e.bp e.width = some c) : c < 2 ^ 12 :=
  (bitRead_lt h).trans_le (Nat.pow_le_pow_right (by decide) (codeWidth_le_twelve _))

theorem lzwNext_data {str : Bytes} (h : bitRead s.input e.bp e.width = some c) (h256 : c ≠ 256) (h257 : c ≠ 257)
    (hstr : lzwString e.table e.prev c = some str) :
    lzwNext atEod (reached s e) = .more (reached s (e.append str)) := by
  obtain ⟨hfull, hclass⟩ := lzwString_eq_some hstr
  have hnext : 258 + e.table.length ≠ 4096 := by omega
  have hcode : (BitVec.ofNat 12 c).toNat = c := Nat.mod_eq_of_lt (lt_of_bitRead_width h)
  rw [lzwNext_read h, ← lzwData_reached s e hfull str, lzwCases, if_neg h256, if_neg h257, if_neg hnext]
  rcases hclass with ⟨hlit, rfl⟩ | ⟨hlit, hlt, hentry⟩ | ⟨hlit, hnew, p, hprev, rfl⟩
  · rw [if_pos hlit, lzwLit]
  · rw [if_neg hlit, if_pos hlt, lzwRef, hcode, tableEntry_reached (e := e.pass) (by omega) hlt hentry]
  · have hprev' : (reached s e.pass).work.prev = some p := hprev
    have hnext' : c = (reached s e.pass).work.next := hnew
    rw [if_neg hlit, if_neg (by omega), if_pos ⟨hnew, by rw [hprev]; rfl⟩, lzwKwkwk, hprev', hcode]
    exact if_pos hnext'

theorem lzwNext_illegal (h : bitRead s.input e.bp e.width = some c) (h256 : c ≠ 256) (h257 : c ≠ 257)
    (hstr : lzwString e.table e.prev c = none) :
    lzwNext atEod (reached s e) = .raise .lzwCorrupt (reached s e.pass) := by
  rw [lzwNext_read h, lzwCases, if_neg h256, if_neg h257]
  rcases lzwString_eq_none h256 h257 hstr with hfull | ⟨hlit, href, hnew⟩
  · rw [if_pos (by omega)]; rfl
  · by_cases hfull : 258 + e.table.length = 4096
    · rw [if_pos hfull]; rfl
    · rw [if_neg hfull, if_neg hlit, if_neg href, if_neg hnew]; rfl

end

/-! ## A sequence of codes -/

/-- The codes, none of them illegal or end-of-data, lead from one expansion to another. -/
inductive Reads : Expansion → List Nat → Expansion → Prop
  | nil (e : Expansion) : Reads e [] e
  | clear {e e' : Expansion} {rest : List Nat} (h : Reads e.clear rest e') : Reads e (256 :: rest) e'
  | data {e e' : Expansion} {c : Nat} {rest : List Nat} {str : Bytes} (h256 : c ≠ 256) (h257 : c ≠ 257)
      (hstr : lzwString e.table e.prev c = some str) (h : Reads (e.append str) rest e') : Reads e (c :: rest) e'

namespace Reads
variable {e e' : Expansion} {codes : List Nat}

/-- The content only grows. -/
theorem content_prefix (h : Reads e codes e') : e.content <+: e'.content := by
  induction h with
  | nil e => exact List.prefix_rfl
  | clear _ ih => exact ih
  | data _ _ _ _ ih => exact (List.prefix_append _ _).trans ih

/-- The cursor moves over the bits of the codes. -/
theorem bp_eq (h : Reads e codes e') : e'.bp = e.bp + (lzwBits e.place codes).length := by
  induction h with
  | nil e => rfl
  | clear _ ih =>
    rw [ih, lzwBits, List.length_append, numberBits_length, ← Nat.add_assoc]
    rfl
  | data h256 _ _ _ ih =>
    rw [ih, lzwBits, if_neg h256, List.length_append, numberBits_length, ← Nat.add_assoc, place_append]
    rfl

/-- The codes behind are laid out from the place the expansion has come to. -/
theorem lzwBits_append (h : Reads e codes e') (more : List Nat) :
    lzwBits e.place (codes ++ more) = lzwBits e.place codes ++ lzwBits e'.place more := by
  induction h with
  | nil e => rfl
  | clear _ ih =>
    rw [place_clear] at ih
    rw [List.cons_append, lzwBits, if_pos rfl, ih, lzwBits, if_pos rfl, List.append_assoc]
  | data h256 _ _ _ ih =>
    rw [place_append] at ih
    rw [List.cons_append, lzwBits, if_neg h256, ih, lzwBits, if_neg h256, List.append_assoc]

theorem lzwFits_append (h : Reads e codes e') (more : List Nat) :
    lzwFits e.place (codes ++ more) = (lzwFits e.place codes && lzwFits e'.place more) := by
  induction h with
  | nil e => rfl
  | clear _ ih =>
    rw [place_clear] at ih
    rw [List.cons_append, lzwFits, if_pos rfl, ih, lzwFits, if_pos rfl, Bool.and_assoc]
  | data h256 _ _ _ ih =>
    rw [place_append] at ih
    rw [List.cons_append, lzwFits, if_neg h256, ih, lzwFits, if_neg h256, Bool.and_assoc]

end Reads

/-! ## Content and opening -/

section
variable {table : List Bytes} {prev : Option Bytes} {c : Nat} {rest : List Nat} {str : Bytes}

theorem lzwContent_clear : lzwContent table prev (256 :: rest) = lzwContent [] none rest := rfl

theorem lzwContent_data (h256 : c ≠ 256) (hstr : lzwString table prev c = some str) :
    lzwContent table prev (c :: rest) = (lzwContent (lzwTable table prev str) (some str) rest).map (str ++ ·) := by
  rw [lzwContent, if_neg h256, hstr]

theorem lzwContent_illegal (h256 : c ≠ 256) (hstr : lzwString table prev c = none) :
    lzwContent table prev (c :: rest) = none := by
  rw [lzwContent, if_neg h256, hstr]

theorem lzwOpening_data (h256 : c ≠ 256) (hstr : lzwString table prev c = some str) :
    lzwOpening table prev (c :: rest) = str ++ lzwOpening (lzwTable table prev str) (some str) rest := by
  rw [lzwOpening, if_neg h256, hstr]

theorem lzwOpening_illegal (h256 : c ≠ 256) (hstr : lzwString table prev c = none) :
    lzwOpening table prev (c :: rest) = [] := by
  rw [lzwOpening, if_neg h256, hstr]

end

/-- Legal codes lead on, and their opening is their whole content. -/
theorem reads_of_content {codes : List Nat} (h257 : 257 ∉ codes) {e : Expansion} {y : Bytes}
    (h : lzwContent e.table e.prev codes = some y) :
    lzwOpening e.table e.prev codes = y ∧ ∃ e', Reads e codes e' ∧ e'.content = e.content ++ y := by
  induction codes generalizing e y with
  | nil =>
    obtain rfl : [] = y := by simpa [lzwContent] using h
    exact ⟨rfl, e, .nil e, (List.append_nil _).symm⟩
  | cons c rest ih =>
    obtain ⟨hc, hrest⟩ := not_or.1 (mt List.mem_cons.2 h257)
    by_cases h256 : c = 256
    · subst h256
      obtain ⟨hopening, e', hreads, hcontent⟩ := ih hrest (e := e.clear) (lzwContent_clear.symm.trans h)
      exact ⟨hopening, e', .clear hreads, hcontent⟩
    · cases hstr : lzwString e.table e.prev c with
      | none => simp [lzwContent_illegal h256 hstr] at h
      | some str =>
        rw [lzwContent_data h256 hstr, Option.map_eq_some_iff] at h
        obtain ⟨z, hz, rfl⟩ := h
        obtain ⟨hopening, e', hreads, hcontent⟩ := ih hrest (e := e.append str) hz
        refine ⟨?_, e', .data h256 (Ne.symm hc) hstr hreads, ?_⟩
        · rw [lzwOpening_data h256 hstr]
          exact congrArg (str ++ ·) hopening
        · rw [hcontent, ← List.append_assoc]
          rfl

/-- Otherwise the codes lead up to the first illegal one, with the opening as the content. -/
theorem reads_of_illegal {codes : List Nat} (h257 : 257 ∉ codes) {e : Expansion}
    (h : lzwContent e.table e.prev codes = none) :
    ∃ good c rest e', codes = good ++ c :: rest ∧ Reads e good e' ∧ c ≠ 256 ∧ c ≠ 257 ∧
      lzwString e'.table e'.prev c = none ∧ e'.content = e.content ++ lzwOpening e.table e.prev codes := by
  induction codes generalizing e with
  | nil => simp [lzwContent] at h
  | cons c rest ih =>
    obtain ⟨hc, hrest⟩ := not_or.1 (mt List.mem_cons.2 h257)
    by_cases h256 : c = 256
    · subst h256
      obtain ⟨good, bad, more, e', rfl, hreads, hbad⟩ := ih hrest (e := e.clear) (lzwContent_clear.symm.trans h)
      exact ⟨256 :: good, bad, more, e', rfl, .clear hreads, hbad⟩
    · cases hstr : lzwString e.table e.prev c with
      | none =>
        refine ⟨[], c, rest, e, rfl, .nil e, h256, Ne.symm hc, hstr, ?_⟩
        rw [lzwOpening_illegal h256 hstr, List.append_nil]
      | some str =>
        rw [lzwContent_data h256 hstr, Option.map_eq_none_iff] at h
        obtain ⟨good, bad, more, e', rfl, hreads, h256', h257', hnone, hcontent⟩ := ih hrest (e := e.append str) h
        refine ⟨c :: good, bad, more, e', rfl, .data h256 (Ne.symm hc) hstr hreads, h256', h257', hnone, ?_⟩
        rw [hcontent, lzwOpening_data h256 hstr, ← List.append_assoc]
        rfl

/-! ## Codes laid out in the input -/

/-- The bits of the codes stand in the input from the cursor on, each in the width of its place. -/
def LaidOut (e : Expansion) (codes : List Nat) (input : Bytes) : Prop :=
  lzwFits e.place codes = true ∧ ∃ front, front.length = e.bp ∧ front ++ lzwBits e.place codes <+: bitsOf input

theorem laidOut_start {codes : List Nat} {input : Bytes} (hfits : lzwFits 1 codes = true)
    (hbits : lzwBits 1 codes <+: bitsOf input) : LaidOut start codes input :=
  ⟨hfits, [], rfl, hbits⟩

theorem nine_mul_length_le_lzwBits (n : Nat) (codes : List Nat) : 9 * codes.length ≤ (lzwBits n codes).length := by
  induction codes generalizing n with
  | nil => exact Nat.le_refl _
  | cons c rest ih =>
    have hwidth := nine_le_codeWidth n
    have hrest := ih (if c = 256 then 1 else n + 1)
    rw [lzwBits, List.length_append, numberBits_length, List.length_cons]
    omega

namespace LaidOut
variable {e e' : Expansion} {c : Nat} {codes rest more : List Nat} {input : Bytes}

/-- There are no more codes than bytes. -/
theorem length_le (h : LaidOut e codes input) : codes.length ≤ input.length := by
  obtain ⟨-, front, -, hbits⟩ := h
  have hlen := hbits.length_le
  have hcodes := nine_mul_length_le_lzwBits e.place codes
  rw [List.length_append, bitsOf_length] at hlen
  omega

theorem read (h : LaidOut e (c :: rest) input) : bitRead input e.bp e.width = some c := by
  obtain ⟨hfits, front, hfront, hbits⟩ := h
  rw [lzwFits, Bool.and_eq_true, decide_eq_true_eq] at hfits
  rw [lzwBits, ← List.append_assoc] at hbits
  rw [← hfront]
  exact bitRead_of_prefix ((List.prefix_append _ _).trans hbits) hfits.1

/-- Behind its first code the rest is laid out from the place this code leads to. -/
theorem tail (h : LaidOut e (c :: rest) input) (hbp : e'.bp = e.bp + e.width)
    (hplace : e'.place = if c = 256 then 1 else e.place + 1) : LaidOut e' rest input := by
  obtain ⟨hfits, front, hfront, hbits⟩ := h
  rw [lzwFits, Bool.and_eq_true, ← hplace] at hfits
  rw [lzwBits, ← List.append_assoc, ← hplace] at hbits
  refine ⟨hfits.2, _, ?_, hbits⟩
  rw [List.length_append, numberBits_length, hfront, hbp]
  rfl

theorem clear (h : LaidOut e (256 :: rest) input) : LaidOut e.clear rest input :=
  h.tail rfl rfl

theorem append (h : LaidOut e (c :: rest) input) (h256 : c ≠ 256) (str : Bytes) : LaidOut (e.append str) rest input :=
  h.tail rfl (by rw [place_append, if_neg h256])

theorem after (h : LaidOut e (codes ++ more) input) (hreads : Reads e codes e') : LaidOut e' more input := by
  induction hreads with
  | nil e => exact h
  | clear _ ih => exact ih h.clear
  | data h256 _ _ _ ih => exact ih (h.append h256 _)

end LaidOut

/-! ## The expansion loop -/

/-- The loop over codes laid out in the input comes to where they lead, or its limit stops it on the way. -/
theorem loop_reads {s : State} {e e' : Expansion} {codes more : List Nat} {limit : Int} {atEod atEnd : State → Flow}
    (h : Reads e codes e') (hlaid : LaidOut e (codes ++ more) s.input) (k : Nat) :
    loop limit (lzwNext atEod) atEnd (codes.length + k) (reached s e) =
        loop limit (lzwNext atEod) atEnd k (reached s e') ∨
      ∃ e'', e''.content <+: e'.content ∧ checkBufLen (reached s e'').out.length limit = false ∧
        loop limit (lzwNext atEod) atEnd (codes.length + k) (reached s e) = .stop (reached s e'') := by
  induction h with
  | nil e => exact .inl (by rw [List.length_nil, Nat.zero_add])
  | @clear e e' rest h ih =>
    cases hlimit : checkBufLen (reached s e).out.length limit with
    | false => exact .inr ⟨e, (Reads.clear h).content_prefix, hlimit, loop_full hlimit⟩
    | true =>
      rw [List.length_cons, Nat.succ_add, loop_step hlimit (lzwNext_clear hlaid.read)]
      exact ih hlaid.clear
  | @data e e' c rest str h256 h257 hstr h ih =>
    cases hlimit : checkBufLen (reached s e).out.length limit with
    | false => exact .inr ⟨e, (Reads.data h256 h257 hstr h).content_prefix, hlimit, loop_full hlimit⟩
    | true =>
      rw [List.length_cons, Nat.succ_add, loop_step hlimit (lzwNext_data hlaid.read h256 h257 hstr)]
      exact ih (hlaid.append h256 str)

/-- The loop of a command, on codes behind which it ends. -/
theorem symbolLoop_reads {s : State} {e : Expansion} {codes more : List Nat} {limit : Int} {atEod : State → Flow}
    {f : Flow} (hwork : s.work = Work.initial) (h : Reads start codes e) (hlaid : LaidOut start (codes ++ more) s.input)
    (hend : lzwNext atEod (reached s e) = f) (hf : ∀ u, f ≠ .more u) :
    symbolLoop limit (lzwNext atEod) s = f ∨
      ∃ e', e'.content <+: e.content ∧ checkBufLen (reached s e').out.length limit = false ∧
        symbolLoop limit (lzwNext atEod) s = .stop (reached s e') := by
  have hlen := hlaid.length_le
  rw [List.length_append] at hlen
  obtain ⟨k, hk⟩ := Nat.exists_eq_add_of_le (show codes.length + 1 ≤ s.input.length + 1 by omega)
  have hrounds : symbolLoop limit (lzwNext atEod) s =
      loop limit (lzwNext atEod) Flow.more (codes.length + (k + 1)) (reached s start) := by
    rw [symbolLoop, hk, reached_start s hwork, Nat.add_assoc, Nat.add_comm 1 k]
  rw [hrounds]
  rcases loop_reads (limit := limit) (atEod := atEod) (atEnd := Flow.more) h hlaid (k + 1) with hloop | hstop
  · cases hlimit : checkBufLen (reached s e).out.length limit with
    | false => exact .inr ⟨e, List.prefix_rfl, hlimit, hloop.trans (loop_full hlimit)⟩
    | true => exact .inl (hloop.trans (loop_end hlimit hend hf))
  · exact .inr hstop

/-- Without a limit the loop ends where the codes lead. -/
theorem symbolLoop_reads_unlimited {s : State} {e : Expansion} {codes more : List Nat} {atEod : State → Flow} {f : Flow}
    (hwork : s.work = Work.initial) (h : Reads start codes e) (hlaid : LaidOut start (codes ++ more) s.input)
    (hend : lzwNext atEod (reached s e) = f) (hf : ∀ u, f ≠ .more u) : symbolLoop (-1) (lzwNext atEod) s = f := by
  rcases symbolLoop_reads (limit := -1) hwork h hlaid hend hf with hloop | ⟨e', -, hlimit, -⟩
  · exact hloop
  · rw [checkBufLen_neg (by decide)] at hlimit
    exact absurd hlimit (by decide)

/-- Behind legal codes the end-of-data code is laid out in the width of its place. -/
theorem laidOut_eod {codes : List Nat} {input : Bytes} {e : Expansion} (hreads : Reads start codes e)
    (hfits : lzwFits 1 codes = true) (hbits : lzwBits 1 (codes ++ [257]) <+: bitsOf input) :
    LaidOut start (codes ++ [257]) input := by
  have heod : lzwFits e.place [257] = true := by
    have hpow : 2 ^ 9 ≤ 2 ^ codeWidth e.place := Nat.pow_le_pow_right (by decide) (nine_le_codeWidth _)
    simp [lzwFits]
    omega
  have happend := hreads.lzwFits_append [257]
  rw [place_start, hfits, heod] at happend
  exact laidOut_start happend hbits

/-- (42_lzw.md R145; 47_bounded_decode.md R248) Codes behind which the end-of-data code stands are expanded to their content,
or until OUT has reached the limit; `atEod` ends the command. -/
theorem symbolLoop_of_content {codes : List Nat} {y : Bytes} {s : State} {limit : Int} {atEod : State → Flow}
    (hwork : s.work = Work.initial) (h257 : 257 ∉ codes) (hfits : lzwFits 1 codes = true)
    (hy : lzwContent [] none codes = some y) (hbits : lzwBits 1 (codes ++ [257]) <+: bitsOf s.input)
    (hstop : ∀ e, atEod (reached s e) = .stop (reached s e)) :
    ∃ e, symbolLoop limit (lzwNext atEod) s = .stop (reached s e) ∧ e.content <+: y ∧
      (e.content = y ∨ checkBufLen (reached s e).out.length limit = false) := by
  obtain ⟨-, e, hreads, hcontent⟩ := reads_of_content h257 (e := start) hy
  have hlaid := laidOut_eod hreads hfits hbits
  have hend : lzwNext atEod (reached s e) = .stop (reached s e.pass) :=
    (lzwNext_eod (hlaid.after hreads).read).trans (hstop e.pass)
  rcases symbolLoop_reads (limit := limit) hwork hreads hlaid hend (by simp) with hloop | ⟨e', hprefix, hlimit, hloop⟩
  · exact ⟨e.pass, hloop, hcontent ▸ List.prefix_rfl, .inl hcontent⟩
  · exact ⟨e', hloop, hprefix.trans (hcontent ▸ List.prefix_rfl), .inr hlimit⟩

/-- (42_lzw.md R144, R149) Codes cut before the end-of-data code, and codes one of which is illegal, are corrupt behind
their opening, whatever `atEod` is. -/
theorem symbolLoop_of_fault {codes : List Nat} {s : State} (hwork : s.work = Work.initial) (h257 : 257 ∉ codes)
    (hfits : lzwFits 1 codes = true) (hbits : lzwBits 1 codes <+: bitsOf s.input)
    (hfault : (∃ y, lzwContent [] none codes = some y ∧ (bitsOf s.input).length < (lzwBits 1 (codes ++ [257])).length) ∨
      lzwContent [] none codes = none) :
    ∃ e, e.content = lzwOpening [] none codes ∧
      ∀ atEod, symbolLoop (-1) (lzwNext atEod) s = .raise .lzwCorrupt (reached s e) := by
  rcases hfault with ⟨y, hy, hcut⟩ | hillegal
  · obtain ⟨hopening, e, hreads, hcontent⟩ := reads_of_content h257 (e := start) hy
    have hbp : e.bp = (lzwBits 1 codes).length := by rw [hreads.bp_eq]; exact Nat.zero_add _
    have hshort : 8 * s.input.length < e.bp + e.width := by
      have hlen := congrArg List.length (hreads.lzwBits_append [257])
      rw [bitsOf_length] at hcut
      simp only [place_start, lzwBits, List.length_append, numberBits_length, List.length_nil] at hlen hcut
      rw [hbp, Expansion.width]
      omega
    refine ⟨e, hcontent.trans hopening.symm, fun atEod => ?_⟩
    exact symbolLoop_reads_unlimited (more := []) hwork hreads (laidOut_start (by simpa using hfits) (by simpa using hbits))
      (lzwNext_cut hshort) (by simp)
  · obtain ⟨good, c, rest, e, rfl, hreads, h256, h257', hnone, hcontent⟩ := reads_of_illegal h257 (e := start) hillegal
    have hlaid : LaidOut start (good ++ c :: rest) s.input := laidOut_start hfits hbits
    exact ⟨e.pass, hcontent, fun atEod =>
      symbolLoop_reads_unlimited hwork hreads hlaid (lzwNext_illegal (hlaid.after hreads).read h256 h257' hnone)
        (by simp)⟩

end Sys2Proof.Proofs.LzwExpansion
end

section
/-! DECODE and DECODELEN on an LZW instance (42_lzw.md R140, R153): what the expansion hands over becomes OUT, with
Predictor 2 by way of the TIFF predictor. Two decodes of one input on different engines expand it alike (`Ending`). -/

namespace Sys2Proof.Proofs.LzwDecode

open Sys2Proof Sys2Proof.Machine Sys2Proof.Streams Sys2Proof.Proofs.Predictor Sys2Proof.Proofs.LzwExpansion

/-! ## How a data command ends -/

/-- What the codecs' rules leave as it was. -/
def Kept (s u : State) : Prop :=
  u.input = s.input ∧ u.inst = s.inst ∧ u.cfg = s.cfg ∧ u.pending = s.pending

theorem Kept.trans {s u v : State} (h : Kept s u) (h' : Kept u v) : Kept s v := by
  obtain ⟨hinput, hinst, hcfg, hpending⟩ := h
  obtain ⟨hinput', hinst', hcfg', hpending'⟩ := h'
  exact ⟨hinput'.trans hinput, hinst'.trans hinst, hcfg'.trans hcfg, hpending'.trans hpending⟩

theorem kept_reached (s : State) (e : Expansion) : Kept s (reached s e) :=
  ⟨reached_input s e, reached_inst s e, reached_cfg s e, reached_pending s e⟩

section
variable {s u : State} {input : Bytes} {limit : Option Int} {body : State → Flow}

theorem dataCommand_of_ready (hs : Ready s) (hlimit : limit.all (fitsParamBits s.cfg.paramBits) = true) :
    dataCommand input limit body s = settleCommand (body (startData input limit s)) := by
  obtain ⟨hvalid, hmaxIn, -⟩ := hs
  exact dataCommand_run (by rw [hmaxIn]; rfl) hlimit hvalid

/-- A rule that stops ends the command `ok`, and OUT is delivered. -/
theorem dataCommand_of_stop (hs : Ready s) (hlimit : limit.all (fitsParamBits s.cfg.paramBits) = true)
    (hbody : body (startData input limit s) = .stop u) (hkept : Kept (startData input limit s) u) :
    ∃ t, dataCommand input limit body s = .next t ∧ Delivers u.out input s t := by
  obtain ⟨hinput, hinst, hcfg, hpending⟩ := hkept
  have hcap : Unbounded u.cfg := by rw [hcfg]; exact hs.2
  refine ⟨endOk u, ?_, rfl, rfl, hinput, hinst, hcfg, hpending⟩
  rw [dataCommand_of_ready hs hlimit, hbody]
  exact settleSymbol_stop hcap

/-- A rule that raises ends the command with the error. -/
theorem dataCommand_of_raise {err : EngineError} (hs : Ready s)
    (hlimit : limit.all (fitsParamBits s.cfg.paramBits) = true)
    (hbody : body (startData input limit s) = .raise err u) (hkept : Kept (startData input limit s) u) :
    ∃ t, dataCommand input limit body s = .next t ∧ FailsAs (.error err) { s with input := input } t := by
  obtain ⟨hinput, hinst, hcfg, hpending⟩ := hkept
  refine ⟨endError err u, ?_, ?_⟩
  · rw [dataCommand_of_ready hs hlimit, hbody]
    rfl
  · simp only [startData_input, startData_inst, startData_cfg, startData_pending] at hinput hinst hcfg hpending
    simp [FailsAs, endError, hinput, hinst, hcfg, hpending]

end

/-! ## The rules on an instance that passes validation -/

theorem validateParms_of_geometryOk {i : Inst} (hgeo : GeometryOk i)
    (hpred : parm i .predictor = 1 ∨ parm i .predictor = 2) : validateParms .lzw i = none := by
  obtain ⟨hcolors, hbpc, hcolumns⟩ := hgeo
  have hcolors' : ¬ parm i .colors ≤ 0 := by omega
  have hcolumns' : ¬ parm i .columns < 1 := by omega
  rw [Validation.validateParms_eq_firstFailing]
  rcases hpred with hpred | hpred <;> simp [checks, hpred, hcolors', hcolumns', hbpc]

section
variable {s u : State} (hvalid : validateParms .lzw s.inst = none)
include hvalid

theorem lzwDecode_of_valid : lzwDecode s = symbolLoop (-1) (lzwNext lzwEod) s := by
  rw [lzwDecode, hvalid]

theorem lzwDecodeLazy_of_one (hone : parm s.inst .predictor = 1) (limit : Int) :
    lzwDecodeLazy limit s = symbolLoop limit (lzwNext Flow.stop) s := by
  rw [lzwDecodeLazy, hvalid]
  exact if_pos hone

theorem lzwDecodeLazy_unlimited_of_stop (hne : parm s.inst .predictor ≠ 1)
    (hloop : symbolLoop (-1) (lzwNext Flow.stop) s = .stop u) :
    lzwDecodeLazy (-1) s = tiffRows (-1) (leftoverEnd (tiffFrame u)) u := by
  have hlimit : ¬ checkBufLen s.out.length (-1) = false := by simp [checkBufLen_neg]
  simp only [lzwDecodeLazy, hvalid, if_neg hne, if_neg hlimit, hloop]

theorem lzwDecodeLazy_unlimited_of_raise {err : EngineError} (hne : parm s.inst .predictor ≠ 1)
    (hloop : symbolLoop (-1) (lzwNext Flow.stop) s = .raise err u) :
    lzwDecodeLazy (-1) s = tiffRows (-1) (Flow.raise err) u := by
  have hlimit : ¬ checkBufLen s.out.length (-1) = false := by simp [checkBufLen_neg]
  simp only [lzwDecodeLazy, hvalid, if_neg hne, if_neg hlimit, hloop]

end

theorem predictor_ne_one {i : Inst} (h : parm i .predictor = 2) : parm i .predictor ≠ 1 := by
  rw [h]; decide

theorem lzwEod_of_one {s : State} (h : parm s.inst .predictor = 1) : lzwEod s = .stop s :=
  if_pos h

theorem lzwEod_of_ne_one {s : State} (h : parm s.inst .predictor ≠ 1) : lzwEod s = predTiff s :=
  if_neg h

/-- The whole rows of RAW, transformed, stand before whatever follows them (47_bounded_decode.md R247). -/
theorem tiffRows_unlimited {s : State} (hcap : Unbounded s.cfg) (hgeo : GeometryOk s.inst) (atEnd : State → Flow) :
    ∃ z t, WholeRowsOf (rowBytes s.inst) (stride s.inst) s.work.raw z ∧ tiffRows (-1) atEnd s = atEnd t ∧
      t.out = s.out ++ z ∧ t.work.raw = s.work.raw := by
  obtain ⟨t, hdone, hloop⟩ := tiffRows_loop (atEnd := atEnd) hgeo (Nat.le_refl (s.work.raw.length / rowBytes s.inst))
  obtain ⟨z, hz, ht⟩ := hdone
  refine ⟨z, t, hz, ?_, by rw [ht], by rw [ht]⟩
  rw [tiffRows, tiffFrame, rowLoop_of_unbounded hcap, ← Nat.add_zero (_ / _), hloop 0]
  exact if_pos (checkBufLen_neg (by decide))

/-! ## Code sequences (42_lzw.md R142 to R152) -/

section
variable {codes : List Nat} {y : Bytes} {s : State} (hwork : s.work = Work.initial) (hout : s.out = [])
  (hvalid : validateParms .lzw s.inst = none) (hone : parm s.inst .predictor = 1) (h257 : 257 ∉ codes)
  (hfits : lzwFits 1 codes = true) (hy : lzwContent [] none codes = some y)
  (hbits : lzwBits 1 (codes ++ [257]) <+: bitsOf s.input)
include hwork hout hone h257 hfits hy hbits

/-- With Predictor 1 the content goes to OUT, all of it or until the limit is reached. -/
theorem symbolLoop_delivers_content (limit : Int) {atEod : State → Flow}
    (hstop : ∀ u, parm u.inst .predictor = 1 → atEod u = .stop u) :
    ∃ u, symbolLoop limit (lzwNext atEod) s = .stop u ∧ Kept s u ∧ u.out <+: y ∧
      (u.out = y ∨ checkBufLen u.out.length limit = false) := by
  obtain ⟨e, hloop, hprefix, hall⟩ := symbolLoop_of_content (limit := limit) hwork h257 hfits hy hbits
    fun e => hstop (reached s e) (by rwa [reached_inst])
  have hcontent : (reached s e).out = e.content := by rw [reached_out_of_one _ _ hone, hout]; rfl
  rw [← hcontent] at hprefix hall
  exact ⟨reached s e, hloop, kept_reached s e, hprefix, hall⟩

theorem symbolLoop_delivers_all {atEod : State → Flow}
    (hstop : ∀ u, parm u.inst .predictor = 1 → atEod u = .stop u) :
    ∃ u, symbolLoop (-1) (lzwNext atEod) s = .stop u ∧ Kept s u ∧ u.out = y := by
  obtain ⟨u, hloop, hkept, -, hall | hlimit⟩ := symbolLoop_delivers_content hwork hout hone h257 hfits hy hbits (-1) hstop
  · exact ⟨u, hloop, hkept, hall⟩
  · rw [checkBufLen_neg (by decide)] at hlimit
    exact absurd hlimit (by decide)

include hvalid

theorem lzwDecode_of_content : ∃ u, lzwDecode s = .stop u ∧ Kept s u ∧ u.out = y := by
  rw [lzwDecode_of_valid hvalid]
  exact symbolLoop_delivers_all hwork hout hone h257 hfits hy hbits fun _ => lzwEod_of_one

/-- Under a limit each BOUNDED_STOP delivers an opening part of the content, no shorter than 47_bounded_decode.md R243 asks
for. -/
theorem boundedDecode_of_content (hmaxLen : 0 ≤ s.maxLen) :
    ∃ u, boundedDecode .lzw lzwDecode lzwDecodeLazy s = .stop u ∧ Kept s u ∧ u.out <+: y ∧
      min s.maxLen.toNat y.length ≤ u.out.length := by
  rcases boundedDecode_nonneg (k := .lzw) (full := lzwDecode) (lazy := lzwDecodeLazy) hmaxLen with
    ⟨-, h⟩ | ⟨-, h⟩ | ⟨known, -, h⟩
  · obtain ⟨u, hfull, hkept, rfl⟩ := lzwDecode_of_content hwork hout hvalid hone h257 hfits hy hbits
    refine ⟨{ u with out := u.out.take s.maxLen.toNat }, by rw [h, hfull]; rfl, hkept, List.take_prefix _ _, ?_⟩
    exact (List.length_take ..).ge
  · obtain ⟨u, hlazy, hkept, hprefix, hall⟩ :=
      symbolLoop_delivers_content hwork hout hone h257 hfits hy hbits s.maxLen fun _ _ => rfl
    refine ⟨u, by rw [h, lzwDecodeLazy_of_one hvalid hone, hlazy], hkept, hprefix, ?_⟩
    rcases hall with rfl | hlimit
    · exact Nat.min_le_right _ _
    · have hreached : ¬ (s.maxLen < 0 ∨ (u.out.length : Int) < s.maxLen) :=
        mt checkBufLen_eq_true.2 (by simp [hlimit])
      omega
  · obtain ⟨u, hlazy, hkept, rfl⟩ :=
      symbolLoop_delivers_all (atEod := Flow.stop) hwork hout hone h257 hfits hy hbits fun _ _ => rfl
    obtain ⟨p, hcut, hprefix, hlen⟩ := cutChosen_stop s.maxLen.toNat (chosenStop known (stopCase .lzw s)) u
    exact ⟨{ u with out := p }, by rw [h, lzwDecodeLazy_of_one hvalid hone, hlazy, hcut], hkept, hprefix, hlen⟩

end

section
variable {codes : List Nat} {s : State} (hwork : s.work = Work.initial) (hout : s.out = [])
  (hvalid : validateParms .lzw s.inst = none) (h257 : 257 ∉ codes)
  (hfits : lzwFits 1 codes = true) (hbits : lzwBits 1 codes <+: bitsOf s.input)
  (hfault : (∃ y, lzwContent [] none codes = some y ∧ (bitsOf s.input).length < (lzwBits 1 (codes ++ [257])).length) ∨
    lzwContent [] none codes = none)
include hwork hvalid h257 hfits hbits hfault

theorem lzwDecode_of_fault : ∃ u, lzwDecode s = .raise .lzwCorrupt u ∧ Kept s u := by
  obtain ⟨e, -, hloop⟩ := symbolLoop_of_fault hwork h257 hfits hbits hfault
  exact ⟨reached s e, by rw [lzwDecode_of_valid hvalid, hloop], kept_reached s e⟩

include hout

theorem trace_of_fault_one (hone : parm s.inst .predictor = 1) :
    (lzwDecodeLazy (-1) s).trace = some (lzwOpening [] none codes, some .lzwCorrupt) := by
  obtain ⟨e, hcontent, hloop⟩ := symbolLoop_of_fault hwork h257 hfits hbits hfault
  rw [lzwDecodeLazy_of_one hvalid hone, hloop, Flow.trace, reached_out_of_one _ _ hone, hout, List.nil_append, hcontent]

theorem trace_of_fault_two (hcap : Unbounded s.cfg) (hgeo : GeometryOk s.inst) (hne : parm s.inst .predictor ≠ 1) :
    ∃ z, WholeRowsOf (rowBytes s.inst) (stride s.inst) (lzwOpening [] none codes) z ∧
      (lzwDecodeLazy (-1) s).trace = some (z, some .lzwCorrupt) := by
  obtain ⟨e, hcontent, hloop⟩ := symbolLoop_of_fault hwork h257 hfits hbits hfault
  obtain ⟨z, t, hz, hrows, hrowsOut, -⟩ := tiffRows_unlimited (s := reached s e) (by rwa [reached_cfg])
    (by rwa [reached_inst]) (Flow.raise .lzwCorrupt)
  rw [reached_inst, reached_raw_of_ne_one _ _ hne, hwork] at hz
  rw [reached_out_of_ne_one _ _ hne, hout] at hrowsOut
  refine ⟨z, hcontent ▸ hz, ?_⟩
  rw [lzwDecodeLazy_unlimited_of_raise hvalid hne (hloop _), hrows, Flow.trace, hrowsOut]
  rfl

end

/-- Settles O42: the codes are followed on `Expansion` (`symbolLoop_of_content`, `symbolLoop_of_fault`), and what they stand
for is delivered, or handed to the TIFF rows of the trace. -/
theorem lzwDecodesCodeSequences : Obligations.LzwDecodesCodeSequences := by
  intro codes input n s h257 hfits hs hgeo hpred hn
  have hvalid := validateParms_of_geometryOk hgeo hpred
  refine ⟨fun y hone hy hbits => ⟨?decode, ?decodelen⟩, fun hbits hfault => ⟨?fault, ?traceOne, ?traceTwo⟩⟩
  case decode =>
    obtain ⟨u, hstop, hkept, rfl⟩ := lzwDecode_of_content (s := startData input (some (-1)) s) rfl rfl hvalid hone h257 hfits
      hy hbits
    exact dataCommand_of_stop hs (by simp) hstop hkept
  case decodelen =>
    obtain ⟨u, hstop, hkept, hprefix, hlen⟩ := boundedDecode_of_content (s := startData input (some (n : Int)) s) rfl rfl
      hvalid hone h257 hfits hy hbits (Int.natCast_nonneg n)
    obtain ⟨t, hexec, hok, hout, hrest⟩ := dataCommand_of_stop (limit := some (n : Int)) hs hn hstop hkept
    exact ⟨t, hexec, hok, hout ▸ hprefix, hout ▸ hlen, hrest⟩
  case fault =>
    obtain ⟨u, hraise, hkept⟩ := lzwDecode_of_fault (s := startData input (some (-1)) s) rfl hvalid h257 hfits hbits hfault
    exact dataCommand_of_raise hs (by simp) hraise hkept
  case traceOne =>
    exact trace_of_fault_one (s := startData input (some (-1)) s) rfl rfl hvalid h257 hfits hbits hfault
  case traceTwo =>
    intro htwo
    exact trace_of_fault_two (s := startData input (some (-1)) s) rfl rfl hvalid h257 hfits hbits hfault hs.2 hgeo
      (predictor_ne_one htwo)

/-! ## Two decodes of one input (42_lzw.md R153) -/

/-- How a part of the expansion ends, on whatever engine. -/
inductive Ending where
  | goesOn | endOfData | corrupt

/-- What a decode does at such an end. -/
def Ending.flow (atEod : State → Flow) : Ending → State → Flow
  | .goesOn, u => .more u
  | .endOfData, u => atEod u
  | .corrupt, u => .raise .lzwCorrupt u

/-- The input and the expansion decide what the next code does, not the engine. -/
theorem lzwNext_ending (input : Bytes) (e : Expansion) :
    ∃ (k : Ending) (e' : Expansion), ∀ s atEod, s.input = input →
      lzwNext atEod (reached s e) = k.flow atEod (reached s e') := by
  cases hread : bitRead input e.bp e.width with
  | none =>
    refine ⟨.corrupt, e, fun s atEod hinput => lzwNext_cut ?_⟩
    rw [hinput]
    exact bitRead_eq_none.1 hread
  | some c =>
    by_cases h256 : c = 256
    · exact ⟨.goesOn, e.clear, fun s atEod hinput => lzwNext_clear (by rw [hinput, hread, h256])⟩
    by_cases h257 : c = 257
    · exact ⟨.endOfData, e.pass, fun s atEod hinput => lzwNext_eod (by rw [hinput, hread, h257])⟩
    cases hstr : lzwString e.table e.prev c with
    | none => exact ⟨.corrupt, e.pass, fun s atEod hinput => lzwNext_illegal (by rw [hinput, hread]) h256 h257 hstr⟩
    | some str =>
      exact ⟨.goesOn, e.append str, fun s atEod hinput => lzwNext_data (by rw [hinput, hread]) h256 h257 hstr⟩

theorem loop_ending (input : Bytes) (n : Nat) (e : Expansion) :
    ∃ (k : Ending) (e' : Expansion), ∀ s atEod, s.input = input → (∀ u v, atEod u ≠ .more v) →
      loop (-1) (lzwNext atEod) Flow.more n (reached s e) = k.flow atEod (reached s e') := by
  induction n generalizing e with
  | zero => exact ⟨.goesOn, e, fun s atEod _ _ => if_pos (checkBufLen_neg (by decide))⟩
  | succ n ih =>
    obtain ⟨k, e', hnext⟩ := lzwNext_ending input e
    cases k with
    | goesOn =>
      obtain ⟨k, e'', hloop⟩ := ih e'
      refine ⟨k, e'', fun s atEod hinput hend => ?_⟩
      rw [loop_step (checkBufLen_neg (by decide)) (hnext s atEod hinput)]
      exact hloop s atEod hinput hend
    | endOfData =>
      exact ⟨.endOfData, e', fun s atEod hinput hend =>
        loop_end (checkBufLen_neg (by decide)) (hnext s atEod hinput) (hend _)⟩
    | corrupt =>
      exact ⟨.corrupt, e', fun s atEod hinput hend =>
        loop_end (checkBufLen_neg (by decide)) (hnext s atEod hinput) (by simp [Ending.flow])⟩

theorem symbolLoop_ending (input : Bytes) :
    ∃ (k : Ending) (e : Expansion), ∀ s atEod, s.input = input → s.work = Work.initial → (∀ u v, atEod u ≠ .more v) →
      symbolLoop (-1) (lzwNext atEod) s = k.flow atEod (reached s e) := by
  obtain ⟨k, e, hloop⟩ := loop_ending input (input.length + 1) Expansion.start
  refine ⟨k, e, fun s atEod hinput hwork hend => ?_⟩
  have hrun := hloop s atEod hinput hend
  rwa [reached_start s hwork, ← hinput] at hrun

theorem loop_ne_more {limit : Int} {body atEnd : State → Flow} (hend : ∀ u v, atEnd u ≠ .more v) (n : Nat) (s v : State) :
    loop limit body atEnd n s ≠ .more v :=
  loop_ind (P := fun _ => True) (Q := fun f => f ≠ .more v) (fun _ _ _ => by simp) (fun u _ => hend u v)
    (fun _ _ _ _ => trivial) (fun _ _ hbody => hbody v) n s trivial

theorem lzwEod_ne_more (u v : State) : lzwEod u ≠ .more v := by
  unfold lzwEod lzwHandOver tiffBuffer rowLoop
  split_ifs
  · simp
  · exact loop_ne_more (by simp) _ _ _
  · simp
  · simp

/-- An input that decodes on an engine with Predictor 1 reaches the end-of-data code on every engine, behind the same
content. -/
theorem symbolLoop_of_decodeLzw_ok {input : Bytes} {s t : State} (hs : Ready s)
    (hvalid : validateParms .lzw s.inst = none) (hone : parm s.inst .predictor = 1)
    (hexec : exec (.decodeLzw input) s = .next t) (hok : t.status = .ok) :
    ∃ e : Expansion, e.content = t.out ∧
      ∀ s' atEod, s'.input = input → s'.work = Work.initial → (∀ u v, atEod u ≠ .more v) →
        symbolLoop (-1) (lzwNext atEod) s' = atEod (reached s' e) := by
  obtain ⟨k, e, hloop⟩ := symbolLoop_ending input
  have hrun : settleCommand (k.flow lzwEod (reached (startData input (some (-1)) s) e)) = .next t := by
    rw [← hloop (startData input (some (-1)) s) lzwEod rfl rfl lzwEod_ne_more,
      ← lzwDecode_of_valid (s := startData input (some (-1)) s) hvalid, ← dataCommand_of_ready hs (by simp)]
    exact hexec
  cases k with
  | goesOn => simp [Ending.flow, settleCommand] at hrun
  | corrupt =>
    obtain rfl : endError .lzwCorrupt _ = t := by simpa [Ending.flow, settleCommand, settleSymbol] using hrun
    simp [endError] at hok
  | endOfData =>
    refine ⟨e, ?_, hloop⟩
    have hcap : Unbounded (reached (startData input (some (-1)) s) e).cfg := by
      rw [reached_cfg]
      exact hs.2
    rw [Ending.flow, lzwEod_of_one (by rwa [reached_inst]), settleCommand_eq (by simp), settleSymbol_stop hcap] at hrun
    obtain rfl : endOk _ = t := by simpa using hrun
    have hout := reached_out_of_one (startData input (some (-1)) s) e hone
    rw [startData_out, List.nil_append] at hout
    exact hout.symm

section
variable {s : State} {e : Expansion} (hcap : Unbounded s.cfg) (hgeo : GeometryOk s.inst) (hwork : s.work = Work.initial)
  (hout : s.out = []) (htwo : parm s.inst .predictor = 2)
  (hloop : ∀ atEod, (∀ u v, atEod u ≠ .more v) → symbolLoop (-1) (lzwNext atEod) s = atEod (reached s e))
include hgeo hwork htwo hloop

/-- With Predictor 2 the end of the expansion is PRED.TIFF on a buffer that holds the content. -/
theorem lzwDecode_eq_predTiff : lzwDecode s = predTiff (reached s e) ∧ (reached s e).work.raw = e.content := by
  have hne := predictor_ne_one htwo
  refine ⟨?_, by rw [reached_raw_of_ne_one s e hne, hwork]; rfl⟩
  rw [lzwDecode_of_valid (validateParms_of_geometryOk hgeo (.inr htwo)), hloop lzwEod lzwEod_ne_more]
  exact lzwEod_of_ne_one (by rwa [reached_inst])

theorem lzwDecode_of_brokenRow (hbroken : e.content.length % rowBytes s.inst ≠ 0) :
    lzwDecode s = .raise .predictorData (reached s e) := by
  obtain ⟨hdecode, hraw⟩ := lzwDecode_eq_predTiff hgeo hwork htwo hloop
  rw [hdecode, predTiff_of_brokenRow (by rwa [hraw, reached_inst])]

include hcap hout

theorem lzwDecode_of_wholeRows (hwhole : e.content.length % rowBytes s.inst = 0) :
    ∃ u, lzwDecode s = .stop u ∧ Kept s u ∧ TiffBufferOf (rowBytes s.inst) (stride s.inst) e.content u.out := by
  have hne := predictor_ne_one htwo
  obtain ⟨hdecode, hraw⟩ := lzwDecode_eq_predTiff hgeo hwork htwo hloop
  obtain ⟨u, hstop, z, hz, rfl⟩ := predTiff_of_wholeRows (s := reached s e) (by rwa [reached_cfg]) (by rwa [reached_inst])
    (by rwa [hraw, reached_inst])
  rw [reached_inst, hraw, Nat.div_mul_cancel (Nat.dvd_of_mod_eq_zero hwhole), List.take_length] at hz
  refine ⟨_, hdecode.trans hstop, kept_reached s e, ?_⟩
  rw [reached_out_of_ne_one s e hne, hout]
  exact hz

theorem trace_of_brokenRow (hbroken : e.content.length % rowBytes s.inst ≠ 0) :
    ∃ z, WholeRowsOf (rowBytes s.inst) (stride s.inst) e.content z ∧
      (lzwDecodeLazy (-1) s).trace = some (z, some .predictorData) := by
  have hne := predictor_ne_one htwo
  have hvalid := validateParms_of_geometryOk hgeo (.inr htwo)
  obtain ⟨-, hraw⟩ := lzwDecode_eq_predTiff hgeo hwork htwo hloop
  obtain ⟨z, t, hz, hrows, hrowsOut, hrowsRaw⟩ := tiffRows_unlimited (s := reached s e) (by rwa [reached_cfg])
    (by rwa [reached_inst]) (leftoverEnd (tiffFrame (reached s e)))
  rw [reached_inst, hraw] at hz
  rw [reached_out_of_ne_one s e hne, hout] at hrowsOut
  have hleftover : ¬ t.work.raw.length % tiffFrame (reached s e) = 0 := by
    rwa [hrowsRaw, hraw, tiffFrame, reached_inst]
  refine ⟨z, hz, ?_⟩
  rw [lzwDecodeLazy_unlimited_of_stop hvalid hne (hloop Flow.stop (by simp)), hrows, leftoverEnd, if_neg hleftover,
    Flow.trace, hrowsOut]
  rfl

end

theorem parm_predictor_one (i : Inst) : parm { i with predictor := ⟨true, 1⟩ } .predictor = 1 := by
  unfold parm parmReg parmDefault
  split <;> rfl

/-- Settles O45: both engines expand the input alike (`symbolLoop_of_decodeLzw_ok`), and with Predictor 2 the TIFF drivers
run over the expansion. -/
theorem lzwPredictorTwoTransformsTheExpansion : Obligations.LzwPredictorTwoTransformsTheExpansion := by
  rintro input _ s t hs hgeo htwo hexec hok rfl
  have hone := parm_predictor_one s.inst
  have hvalid : validateParms .lzw { s.inst with predictor := ⟨true, 1⟩ } = none :=
    validateParms_of_geometryOk hgeo (.inl hone)
  obtain ⟨e, hcontent, hloop⟩ := symbolLoop_of_decodeLzw_ok
    (s := { s with inst := { s.inst with predictor := ⟨true, 1⟩ } }) hs hvalid hone hexec hok
  have hloop' := fun atEod => hloop (startData input (some (-1)) s) atEod rfl rfl
  rw [← hcontent]
  refine ⟨fun hwhole => ?_, fun hbroken => ⟨?_, ?_⟩⟩
  · obtain ⟨u, hstop, hkept, hz⟩ := lzwDecode_of_wholeRows (s := startData input (some (-1)) s) hs.2 hgeo rfl rfl htwo hloop'
      hwhole
    obtain ⟨v, hrun, hdelivers⟩ := dataCommand_of_stop hs (by simp) hstop hkept
    exact ⟨v, u.out, hrun, hdelivers, hz⟩
  · exact dataCommand_of_raise hs (by simp)
      (lzwDecode_of_brokenRow (s := startData input (some (-1)) s) hgeo rfl htwo hloop' hbroken) (kept_reached _ e)
  · exact trace_of_brokenRow (s := startData input (some (-1)) s) hs.2 hgeo rfl rfl htwo hloop' hbroken

end Sys2Proof.Proofs.LzwDecode
end

section
/-! ENCODE on an LZW instance (42_lzw.md R155 to R161). The pending match always has a code (`MatchOk`), and what is written
only grows (`Extends`); so every byte leads on, the end of the input ends the command, and the bits of the opening clear
code stay in front. -/

namespace Sys2Proof.Proofs.LzwEncode

open Sys2Proof Sys2Proof.Machine Sys2Proof.Streams Sys2Proof.Proofs.Bits Sys2Proof.Proofs.LzwDecode

/-! ## What the encoder's parts keep -/

/-- `u` is `s` after some bits were written and no byte was read. -/
def Extends (s u : State) : Prop :=
  Kept s u ∧ u.ip = s.ip ∧ written s <+: written u

theorem Extends.trans {s u v : State} (h : Extends s u) (h' : Extends u v) : Extends s v := by
  obtain ⟨hkept, hip, hwritten⟩ := h
  obtain ⟨hkept', hip', hwritten'⟩ := h'
  exact ⟨hkept.trans hkept', hip'.trans hip, hwritten.trans hwritten'⟩

theorem extends_bitWrite (v w : Nat) (s : State) : Extends s (bitWrite v w s) :=
  ⟨⟨rfl, rfl, rfl, rfl⟩, rfl, written_bitWrite v w s ▸ List.prefix_append _ _⟩

/-- Registers other than `bitbuf` have no part in what is written. -/
theorem extends_of_bitbuf {s : State} {w : Work} (h : w.bitbuf = s.work.bitbuf) : Extends s { s with work := w } := by
  refine ⟨⟨rfl, rfl, rfl, rfl⟩, rfl, ?_⟩
  simp only [written, h]
  exact List.prefix_rfl

theorem encWiden_bitbuf (w : Work) : (encWiden w).bitbuf = w.bitbuf := by
  unfold encWiden; split <;> rfl

/-! ## The pending match -/

/-- The pending match has a code, unless there is none yet (42_lzw.md R157). -/
def MatchOk (s : State) : Prop :=
  s.work.encMatch = [] ∨ (lzwCodeOf s.work.dict s.work.encMatch).isSome = true

theorem lzwCodeOf_singleton (dict : List (Bytes × Nat)) (b : Byte) : lzwCodeOf dict [b] = some b.toNat := rfl

theorem lzwCodeOf_isSome_of_known {dict : List (Bytes × Nat)} {w : Bytes} (h : lzwKnown dict w = true) :
    (lzwCodeOf dict w).isSome = true := by
  unfold lzwCodeOf
  split
  · rfl
  · exact h

theorem matchOk_setMatch_singleton (b : Byte) (s : State) : MatchOk (setMatch [b] s) :=
  .inr (by rw [setMatch, lzwCodeOf_singleton]; rfl)

/-- A match that has a code is emitted. -/
theorem emitData_of_code {w : Bytes} {s : State} (h : (lzwCodeOf s.work.dict w).isSome = true) :
    ∃ u cleared, emitData w s = some (u, cleared) ∧ Extends s u := by
  obtain ⟨code, hcode⟩ := Option.isSome_iff_exists.1 h
  rw [emitData, hcode]
  have hdata := (extends_bitWrite code s.work.encWidth s).trans (extends_of_bitbuf (encWiden_bitbuf
    { (bitWrite code s.work.encWidth s).work with encCount := (bitWrite code s.work.encWidth s).work.encCount + 1 }))
  dsimp only
  split
  · exact ⟨_, _, rfl, (hdata.trans (extends_bitWrite 256 _ _)).trans (extends_of_bitbuf rfl)⟩
  · exact ⟨_, _, rfl, hdata⟩

/-! ## One round -/

/-- A byte lengthens the match, or the match is emitted and the byte begins the next one. -/
theorem lzwEncodeByte_goes_on {s : State} (h : MatchOk s) (b : Byte) :
    ∃ u, lzwEncodeByte b s = .more u ∧ Extends s u ∧ MatchOk u := by
  unfold lzwEncodeByte
  by_cases hgrow : s.work.encMatch = [] ∨ lzwKnown s.work.dict (s.work.encMatch ++ [b]) = true
  · refine ⟨_, if_pos hgrow, extends_of_bitbuf rfl, ?_⟩
    rcases hgrow with hempty | hknown
    · rw [hempty]
      exact matchOk_setMatch_singleton b s
    · exact .inr (lzwCodeOf_isSome_of_known hknown)
  · obtain ⟨u, cleared, hemit, hu⟩ := emitData_of_code (h.resolve_left fun hempty => hgrow (.inl hempty))
    refine ⟨_, (if_neg hgrow).trans (by rw [hemit]), ?_, matchOk_setMatch_singleton b _⟩
    cases cleared <;> exact hu.trans (extends_of_bitbuf rfl)

/-- The end of the input ends the command, with everything written in OUT. -/
theorem lzwEncodeEnd_stops {s : State} (h : MatchOk s) :
    ∃ u, lzwEncodeEnd s = .stop u ∧ Kept s u ∧ written s <+: bitsOf u.out := by
  have hfinish : ∀ v, Extends s v → Kept s (padBits (bitWrite 257 v.work.encWidth v)) ∧
      written s <+: bitsOf (padBits (bitWrite 257 v.work.encWidth v)).out := fun v hv => by
    obtain ⟨hkept, -, hwritten⟩ := hv.trans (extends_bitWrite 257 v.work.encWidth v)
    exact ⟨hkept, hwritten.trans (written_prefix_padBits _)⟩
  unfold lzwEncodeEnd
  by_cases hempty : s.work.encMatch = []
  · exact ⟨_, if_pos hempty, hfinish s (extends_of_bitbuf (w := s.work) rfl)⟩
  · obtain ⟨u, cleared, hemit, hu⟩ := emitData_of_code (h.resolve_left hempty)
    exact ⟨_, (if_neg hempty).trans (by rw [hemit]), hfinish u hu⟩

/-! ## The encoder -/

/-- As many rounds as there are bytes, and one for the end, complete the command. -/
theorem loop_lzwEncodeNext_stops {n : Nat} {s : State} (h : MatchOk s) (hn : s.input.length - s.ip < n) :
    ∃ u, loop (-1) lzwEncodeNext Flow.more n s = .stop u ∧ Kept s u ∧ written s <+: bitsOf u.out := by
  induction n generalizing s with
  | zero => omega
  | succ n ih =>
    cases hread : inByte s with
    | none =>
      obtain ⟨u, hstop, hu⟩ := lzwEncodeEnd_stops h
      have hround : lzwEncodeNext s = .stop u := by rw [lzwEncodeNext, hread]; exact hstop
      exact ⟨u, loop_end (checkBufLen_neg (by decide)) hround (by simp), hu⟩
    | some r =>
      obtain ⟨b, v⟩ := r
      obtain ⟨hbyte, rfl⟩ := inByte_eq_some.1 hread
      obtain ⟨hlt, -⟩ := List.getElem?_eq_some_iff.1 hbyte
      obtain ⟨u, hmore, ⟨hkept, hip, hwritten⟩, hu⟩ := lzwEncodeByte_goes_on (s := { s with ip := s.ip + 1 }) h b
      have hround : lzwEncodeNext s = .more u := by rw [lzwEncodeNext, hread]; exact hmore
      have hip' : u.ip = s.ip + 1 := hip
      have hinput : u.input = s.input := hkept.1
      obtain ⟨v, hstop, hkept', hwritten'⟩ := ih hu (by rw [hinput, hip']; omega)
      rw [loop_step (checkBufLen_neg (by decide)) hround]
      exact ⟨v, hstop, hkept.trans hkept', hwritten.trans hwritten'⟩

/-- From a start without a match the encoder completes behind the opening clear code. -/
theorem lzwEncode_stops {s : State} (hmatch : s.work.encMatch = []) :
    ∃ u, lzwEncode s = .stop u ∧ Kept s u ∧ written s ++ numberBits 256 9 <+: bitsOf u.out := by
  have hrounds : (bitWrite 256 9 s).input.length - (bitWrite 256 9 s).ip < (bitWrite 256 9 s).input.length + 1 := by omega
  obtain ⟨u, hstop, hkept, hwritten⟩ := loop_lzwEncodeNext_stops (s := bitWrite 256 9 s) (.inl hmatch) hrounds
  rw [written_bitWrite] at hwritten
  exact ⟨u, hstop, Kept.trans ⟨rfl, rfl, rfl, rfl⟩ hkept, hwritten⟩

/-- Settles O43: `lzwEncode_stops` from the state the command starts in, where nothing is written. -/
theorem lzwEncodeOpensWithClear : Obligations.LzwEncodeOpensWithClear := by
  intro d s hs
  obtain ⟨u, hstop, hkept, hopens⟩ := lzwEncode_stops (s := startData d none s) rfl
  obtain ⟨t, hexec, hdelivers⟩ := dataCommand_of_stop (body := lzwEncode) hs rfl hstop hkept
  have ⟨_, hout, _⟩ := hdelivers
  rw [← hout] at hdelivers hopens
  exact ⟨t, hexec, hdelivers, hopens⟩

end Sys2Proof.Proofs.LzwEncode
end

section
/-! How a bounded decode ends where its lazy rule delivers everything or stops at its limit (47_bounded_decode.md R243,
R248): for the codecs whose decode rule is the lazy rule without a limit. -/

namespace Sys2Proof.Proofs.BoundedDecode

open Sys2Proof Sys2Proof.Machine Sys2Proof.Streams Sys2Proof.Proofs.LzwDecode

/-- A run under a limit stopped with the bytes `y`, or with an opening part of them where the limit was reached. -/
def StopsWithin (limit : Int) (s : State) (y : Bytes) (f : Flow) : Prop :=
  ∃ u, f = .stop u ∧ Kept s u ∧ u.out <+: y ∧ (u.out = y ∨ checkBufLen u.out.length limit = false)

/-- Without a limit all of `y` is there. -/
theorem StopsWithin.unlimited {limit : Int} {s : State} {y : Bytes} {f : Flow} (h : StopsWithin limit s y f)
    (hlimit : limit < 0) : ∃ u, f = .stop u ∧ Kept s u ∧ u.out = y := by
  obtain ⟨u, hstop, hkept, -, hall | hfull⟩ := h
  · exact ⟨u, hstop, hkept, hall⟩
  · simp [checkBufLen_neg hlimit] at hfull

/-- With a limit from 0 on the opening part is no shorter than R243 asks for. -/
theorem StopsWithin.limited {limit : Int} {s : State} {y : Bytes} {f : Flow} (h : StopsWithin limit s y f)
    (hlimit : 0 ≤ limit) : ∃ u, f = .stop u ∧ Kept s u ∧ u.out <+: y ∧ min limit.toNat y.length ≤ u.out.length := by
  obtain ⟨u, hstop, hkept, hopens, hall⟩ := h
  refine ⟨u, hstop, hkept, hopens, ?_⟩
  rcases hall with rfl | hfull
  · exact Nat.min_le_right _ _
  · have hreached : ¬ (limit < 0 ∨ (u.out.length : Int) < limit) := mt checkBufLen_eq_true.2 (by simp [hfull])
    omega

/-- Under every BOUNDED_STOP the command delivers an opening part of at least the length R243 asks for. -/
theorem boundedDecode_of_stopsWithin {k : Kind} {lazy : Int → State → Flow} {s : State} {y : Bytes}
    (hlazy : ∀ limit, StopsWithin limit s y (lazy limit s)) (hmaxLen : 0 ≤ s.maxLen) :
    ∃ u, boundedDecode k (lazy (-1)) lazy s = .stop u ∧ Kept s u ∧ u.out <+: y ∧
      min s.maxLen.toNat y.length ≤ u.out.length := by
  obtain ⟨u, hfull, hkept, rfl⟩ := (hlazy (-1)).unlimited (by decide)
  rcases boundedDecode_nonneg (k := k) (full := lazy (-1)) (lazy := lazy) hmaxLen with ⟨-, h⟩ | ⟨-, h⟩ | ⟨known, -, h⟩
  · refine ⟨{ u with out := u.out.take s.maxLen.toNat }, by rw [h, hfull]; rfl, hkept, List.take_prefix _ _, ?_⟩
    exact (List.length_take ..).ge
  · rw [h]
    exact (hlazy s.maxLen).limited hmaxLen
  · obtain ⟨p, hcut, hopens, hlen⟩ := cutChosen_stop s.maxLen.toNat (chosenStop known (stopCase k s)) u
    exact ⟨{ u with out := p }, by rw [h, hfull, hcut], hkept, hopens, hlen⟩

end Sys2Proof.Proofs.BoundedDecode
end

section
/-! What an ASCII85 body stands for, group by group (44_ascii85.md R194 to R198). A body leads on past its first group
(`Leads`) or is malformed in it (`Malformed`); a group's number is the one the decoder's register holds. -/

namespace Sys2Proof.Proofs.Ascii85Body

open Sys2Proof Sys2Proof.Machine Sys2Proof.Streams

/-! ## Bodies -/

/-- The body `cs` begins with a group that stands for `y`, and `rest` is behind it. -/
def Leads (cs y rest : Bytes) : Prop :=
  a85Content cs = (a85Content rest).map (y ++ ·) ∧ a85Opening cs = y ++ a85Opening rest

/-- The first group of the body is malformed. -/
def Malformed (cs : Bytes) : Prop :=
  a85Content cs = none ∧ a85Opening cs = []

theorem leads_nil (cs : Bytes) : Leads cs [] cs := by
  simp [Leads]

theorem leads_z (rest : Bytes) : Leads (0x7A :: rest) [0, 0, 0, 0] rest :=
  ⟨by rw [a85Content.eq_def]; rfl, by rw [a85Opening.eq_def]; rfl⟩

section
variable {c : Byte} {rest y : Bytes} (hz : c ≠ 0x7A)
include hz

theorem a85Content_cons_of_ne_z :
    a85Content (c :: rest) =
      (a85Group ((c :: rest).take 5)).bind fun y => (a85Content ((c :: rest).drop 5)).map (y ++ ·) := by
  match rest with
  | c1 :: c2 :: c3 :: c4 :: rest' =>
    simp only [a85Content, if_neg hz, List.take_succ_cons, List.take_zero, List.drop_succ_cons, List.drop_zero]
    cases a85Group [c, c1, c2, c3, c4] <;> rfl
  | [] | [_] | [_, _] | [_, _, _] =>
    simp only [a85Content, if_neg hz, List.take_succ_cons, List.take_nil, List.drop_succ_cons, List.drop_nil]
    cases a85Group _ <;> simp

theorem a85Opening_cons_of_ne_z :
    a85Opening (c :: rest) =
      (a85Group ((c :: rest).take 5)).elim [] fun y => y ++ a85Opening ((c :: rest).drop 5) := by
  match rest with
  | c1 :: c2 :: c3 :: c4 :: rest' =>
    simp only [a85Opening, if_neg hz, List.take_succ_cons, List.take_zero, List.drop_succ_cons, List.drop_zero]
    cases a85Group [c, c1, c2, c3, c4] <;> rfl
  | [] | [_] | [_, _] | [_, _, _] =>
    simp only [a85Opening, if_neg hz, List.take_succ_cons, List.take_nil, List.drop_succ_cons, List.drop_nil]
    cases a85Group _ <;> simp

theorem leads_of_group (h : a85Group ((c :: rest).take 5) = some y) : Leads (c :: rest) y ((c :: rest).drop 5) := by
  rw [Leads, a85Content_cons_of_ne_z hz, a85Opening_cons_of_ne_z hz, h]
  exact ⟨rfl, rfl⟩

theorem malformed_of_group (h : a85Group ((c :: rest).take 5) = none) : Malformed (c :: rest) := by
  rw [Malformed, a85Content_cons_of_ne_z hz, a85Opening_cons_of_ne_z hz, h]
  exact ⟨rfl, rfl⟩

end

/-- The opening of a body that stands for bytes is all of them. -/
theorem a85Opening_of_content {cs y : Bytes} (h : a85Content cs = some y) : a85Opening cs = y := by
  induction hn : cs.length using Nat.strong_induction_on generalizing cs y with
  | _ n ih =>
    have hlead : ∀ {z rest : Bytes}, Leads cs z rest → rest.length < n → a85Opening cs = y := by
      rintro z rest ⟨hcontent, hopening⟩ hlt
      obtain ⟨w, hw, rfl⟩ := Option.map_eq_some_iff.1 (hcontent.symm.trans h)
      rw [hopening, ih _ hlt hw rfl]
    match cs with
    | [] => simpa [a85Content, a85Opening] using h
    | c :: rest =>
      simp only [List.length_cons] at hn
      by_cases hz : c = 0x7A
      · subst hz
        exact hlead (leads_z rest) (by omega)
      · cases hgroup : a85Group ((c :: rest).take 5) with
        | none => simp [(malformed_of_group hz hgroup).1] at h
        | some z =>
          refine hlead (leads_of_group hz hgroup) ?_
          simp only [List.drop_succ_cons, List.length_drop]
          omega

/-! ## Groups -/

/-- The values of digit characters, as the register `g` holds them (10_state.md R34). -/
def digitValues (g : Bytes) : List Nat :=
  g.map fun c => c.toNat - 33

theorem digitValues_length (g : Bytes) : (digitValues g).length = g.length :=
  List.length_map ..

theorem digitValues_append_digit (g : Bytes) (c : Byte) : digitValues g ++ [c.toNat - 33] = digitValues (g ++ [c]) := by
  simp [digitValues]

/-- A group in progress: at most four characters, all of them digits (10_state.md R34). -/
def InProgress (g : Bytes) : Prop :=
  g.length ≤ 4 ∧ ∀ c ∈ g, isA85Digit c = true

theorem inProgress_nil : InProgress [] := by
  simp [InProgress]

theorem InProgress.append_digit {g : Bytes} {c : Byte} (h : InProgress g) (hlen : g.length < 4)
    (hc : isA85Digit c = true) : InProgress (g ++ [c]) := by
  refine ⟨by simpa using hlen, fun x hx => ?_⟩
  rcases List.mem_append.1 hx with hx | hx
  · exact h.2 x hx
  · rwa [List.mem_singleton.1 hx]

theorem ne_z_of_digit {c : Byte} (h : isA85Digit c = true) : c ≠ 0x7A := by
  rintro rfl
  exact absurd h (by decide)

/-- A group's number: the characters' values, and 84 in the place of each that is not there (44_ascii85.md R196). -/
def groupNumber (g : Bytes) : Nat :=
  a85Value (digitValues g ++ List.replicate (5 - g.length) 84)

theorem a85Value_five (d0 d1 d2 d3 d4 : Nat) : a85Value [d0, d1, d2, d3, d4] = a85Number d0 d1 d2 d3 d4 := by
  simp only [a85Value, a85Number, List.foldl_cons, List.foldl_nil]
  omega

/-- The number of R80 is the one the decoder computes. -/
theorem groupNumber_eq {g : Bytes} (hlen : g.length ≤ 5) :
    groupNumber g =
      a85Number (a85DigitOf g[0]?) (a85DigitOf g[1]?) (a85DigitOf g[2]?) (a85DigitOf g[3]?) (a85DigitOf g[4]?) := by
  rw [← a85Value_five]
  match g, hlen with
  | [], _ | [_], _ | [_, _], _ | [_, _, _], _ | [_, _, _, _], _ | [_, _, _, _, _], _ => rfl

theorem lt_word_iff (v : Nat) : v < 2 ^ 32 ↔ v ≤ maxWord := by
  rw [maxWord]; omega

theorem a85Bytes_eq (v : Nat) : a85Bytes v = wordBytes v := by
  simp [a85Bytes, wordBytes]

/-- A group of digits stands for bytes if it has two or more and its number is a word (44_ascii85.md R195, R196, R198). -/
theorem a85Group_of_digits {g : Bytes} (hlen : g.length ≤ 5) (hdigits : ∀ c ∈ g, isA85Digit c = true) :
    a85Group g =
      if 2 ≤ g.length ∧ groupNumber g ≤ maxWord then some ((wordBytes (groupNumber g)).take (g.length - 1)) else none := by
  have hall : (g.all fun c => decide (0x21 ≤ c ∧ c ≤ 0x75)) = true := List.all_eq_true.2 hdigits
  simp only [a85Group, ← groupNumber_eq hlen, hall, true_and, lt_word_iff, a85Bytes_eq]

/-- A group with a character that is no digit stands for nothing (44_ascii85.md R194, R197). -/
theorem a85Group_of_noDigit {g : Bytes} {c : Byte} (hmem : c ∈ g) (hc : isA85Digit c = false) : a85Group g = none := by
  refine if_neg fun h => ?_
  have hdigit : isA85Digit c = true := List.all_eq_true.1 h.1 c hmem
  simp [hc] at hdigit

/-! ## The last group -/

section
variable {g : Bytes} (hg : InProgress g) (hne : g ≠ [])
include hg hne

/-- At the end of the body the group in progress is the last one (44_ascii85.md R196). -/
theorem leads_of_lastGroup (h : 2 ≤ g.length ∧ groupNumber g ≤ maxWord) :
    Leads g ((wordBytes (groupNumber g)).take (g.length - 1)) [] := by
  obtain ⟨hlen, hdigits⟩ := hg
  obtain ⟨c, rest, rfl⟩ := List.exists_cons_of_ne_nil hne
  have hdrop : (c :: rest).drop 5 = [] := List.drop_eq_nil_of_le (by omega)
  rw [← hdrop]
  refine leads_of_group (ne_z_of_digit (hdigits c (by simp))) ?_
  rw [List.take_of_length_le (by omega), a85Group_of_digits (by omega) hdigits, if_pos h]

theorem malformed_of_lastGroup (h : ¬ (2 ≤ g.length ∧ groupNumber g ≤ maxWord)) : Malformed g := by
  obtain ⟨hlen, hdigits⟩ := hg
  obtain ⟨c, rest, rfl⟩ := List.exists_cons_of_ne_nil hne
  refine malformed_of_group (ne_z_of_digit (hdigits c (by simp))) ?_
  rw [List.take_of_length_le (by omega), a85Group_of_digits (by omega) hdigits, if_neg h]

end

/-! ## The body behind a group in progress -/

section
variable {g : Bytes} {c : Byte} (hg : InProgress g)
include hg

/-- A character that neither continues nor begins a group makes the body malformed (44_ascii85.md R194, R197). -/
theorem malformed_of_noDigit (hc : isA85Digit c = false) (hz : g = [] → c ≠ 0x7A) (more : Bytes) :
    Malformed (g ++ c :: more) := by
  have hmem : c ∈ (g ++ c :: more).take 5 := by
    rw [List.take_append, show 5 - g.length = (4 - g.length) + 1 by have := hg.1; omega, List.take_succ_cons]
    simp
  match g with
  | [] => exact malformed_of_group (hz rfl) (a85Group_of_noDigit hmem hc)
  | d :: _ => exact malformed_of_group (ne_z_of_digit (hg.2 d (by simp))) (a85Group_of_noDigit hmem hc)

variable (hlen : g.length = 4)
include hlen

theorem head_tail_of_fifthDigit (more : Bytes) :
    ∃ d rest, g ++ c :: more = d :: rest ∧ d ≠ 0x7A ∧ (d :: rest).take 5 = g ++ [c] ∧ (d :: rest).drop 5 = more := by
  match g, hlen with
  | [d0, d1, d2, d3], _ => exact ⟨d0, _, rfl, ne_z_of_digit (hg.2 d0 (by simp)), rfl, rfl⟩

variable (hc : isA85Digit c = true)
include hc

/-- The fifth digit completes a group (44_ascii85.md R195). -/
theorem a85Group_of_fifthDigit :
    a85Group (g ++ [c]) =
      if maxWord < groupNumber (g ++ [c]) then none else some (wordBytes (groupNumber (g ++ [c]))) := by
  have hfive : (g ++ [c]).length = 5 := by simp [hlen]
  have hdigits : ∀ x ∈ g ++ [c], isA85Digit x = true := by
    simpa [or_imp, forall_and, hc] using hg.2
  rw [a85Group_of_digits hfive.le hdigits, hfive]
  by_cases hword : groupNumber (g ++ [c]) ≤ maxWord
  · rw [if_pos ⟨by decide, hword⟩, if_neg (by omega)]
    rfl
  · rw [if_neg (by simp [hword]), if_pos (by omega)]

/-- Behind the fifth digit the next group begins, if the number is a word (44_ascii85.md R195). -/
theorem leads_of_fifthDigit (hword : ¬ maxWord < groupNumber (g ++ [c])) (more : Bytes) :
    Leads (g ++ c :: more) (wordBytes (groupNumber (g ++ [c]))) more := by
  obtain ⟨d, rest, hcs, hd, htake, hdrop⟩ := head_tail_of_fifthDigit (c := c) hg hlen more
  have hgroup := (a85Group_of_fifthDigit hg hlen hc).trans (if_neg hword)
  rw [← htake] at hgroup
  rw [hcs, ← htake, ← hdrop]
  exact leads_of_group hd hgroup

theorem malformed_of_fifthDigit (hword : maxWord < groupNumber (g ++ [c])) (more : Bytes) :
    Malformed (g ++ c :: more) := by
  obtain ⟨d, rest, hcs, hd, htake, -⟩ := head_tail_of_fifthDigit (c := c) hg hlen more
  rw [hcs]
  exact malformed_of_group hd (htake ▸ (a85Group_of_fifthDigit hg hlen hc).trans (if_pos hword))

end

end Sys2Proof.Proofs.Ascii85Body
end

section
/-! DECODE and DECODELEN on an ASCII85 instance (44_ascii85.md R192 to R199). `scanned` is the decoder's state between two
characters of the body; each character leads the body behind it on, or its group is malformed (`a85Symbol_cases`). -/

namespace Sys2Proof.Proofs.Ascii85Decode

open Sys2Proof Sys2Proof.Machine Sys2Proof.Streams Sys2Proof.Proofs.LzwDecode Sys2Proof.Proofs.BoundedDecode
open Sys2Proof.Proofs.Ascii85Body

/-! ## The terminator search -/

theorem findEod_cons {a : Byte} {l : Bytes} (h : a = 0x7E → l.head? ≠ some 0x3E) :
    findEod (a :: l) = (findEod l).map (· + 1) := by
  cases l with
  | nil => rfl
  | cons b rest => exact if_neg fun hab => h hab.1 (congrArg some hab.2)

/-- The terminator is found behind a body that holds none (44_ascii85.md R192). -/
theorem findEod_of_body {body : Bytes} (h : ¬ [0x7E, 0x3E] <:+: body) (junk : Bytes) :
    findEod (body ++ 0x7E :: 0x3E :: junk) = some body.length := by
  induction body with
  | nil => rfl
  | cons a rest ih =>
    have hrest : ¬ [0x7E, 0x3E] <:+: rest := fun hin => h (hin.trans (List.infix_cons List.infix_rfl))
    rw [List.cons_append, findEod_cons, ih hrest]
    · rfl
    · rintro rfl hhead
      cases rest with
      | nil => simp at hhead
      | cons b more =>
        obtain rfl : b = 0x3E := by simpa using hhead
        exact h ⟨[], more, rfl⟩

/-! ## The decoder's state -/

/-- The state of a decode that began at `s`: the cursor, the group in progress, and the bytes of the groups before it. -/
def scanned (s : State) (ip : Nat) (g content : Bytes) : State :=
  { s with ip := ip, out := s.out ++ content, work := { s.work with group := digitValues g } }

theorem kept_scanned (s : State) (ip : Nat) (g content : Bytes) : Kept s (scanned s ip g content) :=
  ⟨rfl, rfl, rfl, rfl⟩

theorem scanned_out (s : State) (ip : Nat) (g content : Bytes) : (scanned s ip g content).out = s.out ++ content := rfl

theorem scanned_start {s : State} (hip : s.ip = 0) (hgroup : s.work.group = []) : scanned s 0 [] [] = s := by
  have hwork : { s.work with group := digitValues [] } = s.work := by
    rw [show digitValues [] = s.work.group from hgroup.symm]
  rw [scanned, hwork, List.append_nil, ← hip]

theorem emit_scanned (s : State) (ip : Nat) (g content y : Bytes) :
    emit y (scanned s ip g content) = scanned s ip g (content ++ y) := by
  simp only [emit, scanned, List.append_assoc]

section
variable {s : State} {ip : Nat} {g content : Bytes}

/-! ## One character -/

/-- What one character of the body does. -/
def a85Symbol (c : Byte) (s : State) : Flow :=
  a85Cases c (fun ch => a85Digit ch s) (a85Z s) (fun ch => a85Ws ch s) fun ch => a85Illegal ch s

theorem a85Next_of_char {c : Byte} (hip : ip ≠ s.work.eodpos) (hc : s.input[ip]? = some c) :
    a85Next (scanned s ip g content) = a85Symbol c (scanned s (ip + 1) g content) := by
  have hread : inByte (scanned s ip g content) = some (c, scanned s (ip + 1) g content) := inByte_eq_some.2 ⟨hc, rfl⟩
  have hip' : (scanned s ip g content).ip ≠ (scanned s ip g content).work.eodpos := hip
  rw [a85Next, if_neg hip', hread]
  rfl

theorem a85Z_inside (hne : g ≠ []) : a85Z (scanned s ip g content) = .raise .a85Invalid (scanned s ip g content) :=
  if_neg (mt List.map_eq_nil_iff.1 hne)

theorem a85Z_between : a85Z (scanned s ip [] content) = .more (scanned s ip [] (content ++ [0, 0, 0, 0])) :=
  congrArg Flow.more (emit_scanned s ip [] content [0, 0, 0, 0])

section
variable {c : Byte} (hc : isA85Digit c = true)
include hc

/-- What a digit does, in terms of the group it joins (44_ascii85.md R195). -/
theorem a85Digit_scanned :
    a85Digit c (scanned s ip g content) =
      if (g ++ [c]).length = 5 then
        if maxWord < a85Value (digitValues (g ++ [c])) then .raise .a85Invalid (scanned s ip g content)
        else .more (scanned s ip [] (content ++ wordBytes (a85Value (digitValues (g ++ [c])))))
      else .more (scanned s ip (g ++ [c]) content) := by
  have hflow : a85Digit c (scanned s ip g content) =
      if (digitValues g ++ [c.toNat - 33]).length = 5 then
        if maxWord < a85Value (digitValues g ++ [c.toNat - 33]) then .raise .a85Invalid (scanned s ip g content)
        else .more (setGroup [] (emit (wordBytes (a85Value (digitValues g ++ [c.toNat - 33]))) (scanned s ip g content)))
      else .more (setGroup (digitValues g ++ [c.toNat - 33]) (scanned s ip g content)) := if_neg (by simp [hc])
  rw [hflow, digitValues_append_digit, emit_scanned, digitValues_length]
  rfl

theorem a85Digit_joins (hlen : g.length < 4) :
    a85Digit c (scanned s ip g content) = .more (scanned s ip (g ++ [c]) content) := by
  rw [a85Digit_scanned hc, if_neg (by simp; omega)]

/-- The fifth digit completes the group (44_ascii85.md R195, R198). -/
theorem a85Digit_completes (hlen : g.length = 4) :
    a85Digit c (scanned s ip g content) =
      if maxWord < groupNumber (g ++ [c]) then .raise .a85Invalid (scanned s ip g content)
      else .more (scanned s ip [] (content ++ wordBytes (groupNumber (g ++ [c])))) := by
  have hfive : (g ++ [c]).length = 5 := by simp [hlen]
  have hnumber : groupNumber (g ++ [c]) = a85Value (digitValues (g ++ [c])) := by
    rw [groupNumber, hfive, Nat.sub_self, List.replicate_zero, List.append_nil]
  rw [a85Digit_scanned hc, if_pos hfive, hnumber]

end

/-- The characters of a body that are no white space (44_ascii85.md R193). -/
def visible (body : Bytes) : Bytes :=
  body.filter fun c => decide (c ∉ whiteSpace)

theorem visible_cons_of_ws {c : Byte} (h : c ∈ whiteSpace) (rest : Bytes) : visible (c :: rest) = visible rest :=
  List.filter_cons_of_neg (by simpa using h)

theorem visible_cons_of_not_ws {c : Byte} (h : c ∉ whiteSpace) (rest : Bytes) :
    visible (c :: rest) = c :: visible rest :=
  List.filter_cons_of_pos (by simpa using h)

/-- Everything a character can do: it leads on to the rest of the body with its group in progress, or the group it stands in
is malformed, and raises that (44_ascii85.md R193 to R198). -/
theorem a85Symbol_cases (hg : InProgress g) (c : Byte) (rest : Bytes) :
    (∃ g' y, InProgress g' ∧ a85Symbol c (scanned s ip g content) = .more (scanned s ip g' (content ++ y)) ∧
        Leads (g ++ visible (c :: rest)) y (g' ++ visible rest)) ∨
      a85Symbol c (scanned s ip g content) = .raise .a85Invalid (scanned s ip g content) ∧
        Malformed (g ++ visible (c :: rest)) := by
  by_cases hws : c ∈ whiteSpace
  · have hsymbol : a85Symbol c (scanned s ip g content) = .more (scanned s ip g content) :=
      (if_pos hws).trans (if_pos hws)
    rw [visible_cons_of_ws hws]
    exact .inl ⟨g, [], hg, by rw [hsymbol, List.append_nil], leads_nil _⟩
  rw [visible_cons_of_not_ws hws, a85Symbol, a85Cases, if_neg hws]
  by_cases hz : c = 0x7A
  · subst hz
    rw [if_pos rfl]
    by_cases hempty : g = []
    · subst hempty
      exact .inl ⟨[], _, inProgress_nil, a85Z_between, leads_z _⟩
    · exact .inr ⟨a85Z_inside hempty, malformed_of_noDigit hg (by decide) (fun h => absurd h hempty) _⟩
  rw [if_neg hz]
  by_cases hc : isA85Digit c = true
  · rw [if_pos hc]
    by_cases hlen : g.length < 4
    · refine .inl ⟨g ++ [c], [], hg.append_digit hlen hc, ?_, ?_⟩
      · rw [a85Digit_joins hc hlen, List.append_nil]
      · rw [List.append_assoc]
        exact leads_nil _
    · have hfour : g.length = 4 := Nat.le_antisymm hg.1 (not_lt.1 hlen)
      rw [a85Digit_completes hc hfour]
      by_cases hword : maxWord < groupNumber (g ++ [c])
      · rw [if_pos hword]
        exact .inr ⟨rfl, malformed_of_fifthDigit hg hfour hc hword _⟩
      · rw [if_neg hword]
        exact .inl ⟨[], _, inProgress_nil, rfl, leads_of_fifthDigit hg hfour hc hword _⟩
  · rw [if_neg hc]
    exact .inr ⟨rfl, malformed_of_noDigit hg (by simpa using hc) (fun _ => hz) _⟩

/-! ## The end of the body -/

/-- The terminator ends the last group (44_ascii85.md R196). -/
theorem a85Next_at_eod (hip : ip = s.work.eodpos) :
    a85Next (scanned s ip g content) = a85Eod (scanned s (ip + 2) g content) :=
  if_pos hip

/-- What the terminator does, in terms of the last group (44_ascii85.md R196). -/
theorem a85Eod_scanned :
    a85Eod (scanned s ip g content) =
      if g.length = 0 then .stop (scanned s ip g content)
      else if g.length = 1 then .raise .a85Invalid (scanned s ip g content)
      else if maxWord < groupNumber g then .raise .a85Invalid (scanned s ip g content)
      else .stop (scanned s ip g (content ++ (wordBytes (groupNumber g)).take (g.length - 1))) := by
  have hgroup : (scanned s ip g content).work.group = digitValues g := rfl
  simp only [a85Eod, hgroup, digitValues_length, emit_scanned, groupNumber]
  rfl

/-- What the last group stands for is emitted, or it is malformed and raises that. -/
theorem a85Eod_cases (hg : InProgress g) :
    (∃ y, a85Eod (scanned s ip g content) = .stop (scanned s ip g (content ++ y)) ∧ Leads g y []) ∨
      a85Eod (scanned s ip g content) = .raise .a85Invalid (scanned s ip g content) ∧ Malformed g := by
  rw [a85Eod_scanned]
  by_cases hempty : g = []
  · subst hempty
    exact .inl ⟨[], by rw [List.append_nil]; rfl, leads_nil _⟩
  rw [if_neg (mt List.length_eq_zero_iff.1 hempty)]
  by_cases hone : g.length = 1
  · rw [if_pos hone]
    exact .inr ⟨rfl, malformed_of_lastGroup hg hempty fun h => by omega⟩
  rw [if_neg hone]
  by_cases hword : maxWord < groupNumber g
  · rw [if_pos hword]
    exact .inr ⟨rfl, malformed_of_lastGroup hg hempty fun h => absurd h.2 (not_le.2 hword)⟩
  · have hpos := List.length_pos_iff.2 hempty
    rw [if_neg hword]
    exact .inl ⟨_, rfl, leads_of_lastGroup hg hempty ⟨by omega, not_lt.1 hword⟩⟩

end

/-! ## The whole body -/

/-- How a scan of the body `cs` under a limit ends, behind the bytes `before`: `ok` with what the body stands for, in its
error behind the opening, or stopped by the limit on the way. -/
def ScanEnds (limit : Int) (s : State) (before cs : Bytes) (f : Flow) : Prop :=
  ∃ u, Kept s u ∧
    (u.out = before ++ a85Opening cs ∧
        (f = .stop u ∧ (a85Content cs).isSome ∨ f = .raise .a85Invalid u ∧ a85Content cs = none) ∨
      f = .stop u ∧ u.out <+: before ++ a85Opening cs ∧ checkBufLen u.out.length limit = false)

theorem ScanEnds.of_leads {limit : Int} {s : State} {before cs y rest : Bytes} {f : Flow} (h : Leads cs y rest)
    (hends : ScanEnds limit s (before ++ y) rest f) : ScanEnds limit s before cs f := by
  obtain ⟨hcontent, hopening⟩ := h
  rw [ScanEnds, hcontent, hopening, ← List.append_assoc]
  simpa only [ScanEnds, Option.isSome_map, Option.map_eq_none_iff] using hends

theorem ScanEnds.of_malformed {limit : Int} {s u : State} {before cs : Bytes} (h : Malformed cs) (hkept : Kept s u)
    (hout : u.out = before) : ScanEnds limit s before cs (.raise .a85Invalid u) := by
  obtain ⟨hcontent, hopening⟩ := h
  exact ⟨u, hkept, .inl ⟨by rw [hopening, List.append_nil, hout], .inr ⟨rfl, hcontent⟩⟩⟩

section
variable {s : State} {junk : Bytes} {limit : Int}

theorem ScanEnds.of_full {ip : Nat} {g content cs : Bytes}
    (hlimit : checkBufLen (scanned s ip g content).out.length limit = false) :
    ScanEnds limit s (s.out ++ content) cs (.stop (scanned s ip g content)) :=
  ⟨_, kept_scanned s ip g content, .inr ⟨rfl, List.prefix_append _ _, hlimit⟩⟩

/-- The terminator ends the scan. -/
theorem a85Next_ends {ip : Nat} {g content : Bytes} (hg : InProgress g) (hip : ip = s.work.eodpos) :
    ScanEnds limit s (s.out ++ content) g (a85Next (scanned s ip g content)) ∧
      ∀ u, a85Next (scanned s ip g content) ≠ .more u := by
  rw [a85Next_at_eod hip]
  rcases a85Eod_cases (s := s) (ip := ip + 2) (content := content) hg with ⟨y, hstop, hlead⟩ | ⟨hraise, hbad⟩
  · rw [hstop]
    refine ⟨.of_leads hlead ⟨_, kept_scanned s _ g _, .inl ⟨?_, .inl ⟨rfl, rfl⟩⟩⟩, by simp⟩
    rw [a85Opening, List.append_nil, scanned_out, List.append_assoc]
  · rw [hraise]
    exact ⟨.of_malformed hbad (kept_scanned s _ g content) rfl, by simp⟩

/-- As many rounds as there are characters before the terminator, and one for it, end the scan. -/
theorem loop_scan {rest : Bytes} {n ip : Nat} {g content : Bytes} (hg : InProgress g)
    (hinput : s.input.drop ip = rest ++ 0x7E :: 0x3E :: junk) (heod : s.work.eodpos = ip + rest.length)
    (hn : rest.length < n) :
    ScanEnds limit s (s.out ++ content) (g ++ visible rest)
      (loop limit a85Next Flow.more n (scanned s ip g content)) := by
  induction rest generalizing n ip g content with
  | nil =>
    obtain ⟨n, rfl⟩ := Nat.exists_eq_succ_of_ne_zero (Nat.ne_of_gt hn)
    rw [visible, List.filter_nil, List.append_nil]
    cases hlimit : checkBufLen (scanned s ip g content).out.length limit with
    | false =>
      rw [loop_full hlimit]
      exact .of_full hlimit
    | true =>
      obtain ⟨hends, hmore⟩ := a85Next_ends (limit := limit) (content := content) hg heod.symm
      rwa [loop_end hlimit rfl hmore]
  | cons c rest ih =>
    obtain ⟨n, rfl⟩ := Nat.exists_eq_succ_of_ne_zero (Nat.ne_of_gt (Nat.zero_lt_of_lt hn))
    rw [List.length_cons] at heod hn
    have hc : s.input[ip]? = some c := by rw [← List.head?_drop, hinput]; rfl
    have hinput' : s.input.drop (ip + 1) = rest ++ 0x7E :: 0x3E :: junk := by
      rw [← List.drop_drop, hinput]; rfl
    have hnext := a85Next_of_char (g := g) (content := content) (show ip ≠ s.work.eodpos by omega) hc
    cases hlimit : checkBufLen (scanned s ip g content).out.length limit with
    | false =>
      rw [loop_full hlimit]
      exact .of_full hlimit
    | true =>
      rcases a85Symbol_cases (s := s) (ip := ip + 1) (content := content) hg c rest with
        ⟨g', y, hg', hmore, hlead⟩ | ⟨hraise, hbad⟩
      · rw [loop_step hlimit (hnext.trans hmore)]
        have hends := ih (content := content ++ y) hg' hinput' (by omega) (Nat.lt_of_succ_lt_succ hn)
        rw [← List.append_assoc] at hends
        exact .of_leads hlead hends
      · rw [loop_end hlimit (hnext.trans hraise) (by simp)]
        exact .of_malformed hbad (kept_scanned s _ g content) rfl

theorem symbolLoop_scan {body : Bytes} (hinput : s.input = body ++ 0x7E :: 0x3E :: junk) (hip : s.ip = 0)
    (hgroup : s.work.group = []) (hout : s.out = []) (heod : s.work.eodpos = body.length) :
    ScanEnds limit s [] (visible body) (symbolLoop limit a85Next s) := by
  have hrounds : body.length < s.input.length + 1 := by rw [hinput, List.length_append]; omega
  have hends := loop_scan (limit := limit) (ip := 0) (content := []) inProgress_nil hinput (heod.trans (Nat.zero_add _).symm) hrounds
  rwa [scanned_start hip hgroup, hout] at hends

end

section
variable {s : State} {body junk : Bytes} (hbody : ¬ [0x7E, 0x3E] <:+: body)
  (hinput : s.input = body ++ 0x7E :: 0x3E :: junk) (hip : s.ip = 0) (hwork : s.work = Work.initial) (hout : s.out = [])
include hbody hinput hip hwork hout

/-- The decode rule scans the body up to the terminator (44_ascii85.md R192, R199). -/
theorem a85DecodeLazy_ends (limit : Int) : ScanEnds limit s [] (visible body) (a85DecodeLazy limit s) := by
  have heod : findEod s.input = some body.length := hinput ▸ findEod_of_body hbody junk
  have hgroup : s.work.group = [] := by rw [hwork]; rfl
  have hends := symbolLoop_scan (s := { s with work := { s.work with eodpos := body.length } }) (limit := limit) hinput hip
    hgroup hout rfl
  simp only [a85DecodeLazy, heod]
  exact hends

/-- A body that stands for bytes is decoded to them, all or until the limit is reached. -/
theorem a85DecodeLazy_of_content {y : Bytes} (hy : a85Content (visible body) = some y) (limit : Int) :
    StopsWithin limit s y (a85DecodeLazy limit s) := by
  obtain ⟨u, hkept, h⟩ := a85DecodeLazy_ends hbody hinput hip hwork hout limit
  rw [a85Opening_of_content hy, List.nil_append] at h
  rcases h with ⟨hall, ⟨hstop, -⟩ | ⟨-, hnone⟩⟩ | ⟨hstop, hopens, hfull⟩
  · exact ⟨u, hstop, hkept, hall ▸ List.prefix_rfl, .inl hall⟩
  · simp [hnone] at hy
  · exact ⟨u, hstop, hkept, hopens, .inr hfull⟩

/-- A malformed body raises its error behind the groups before the malformed one. -/
theorem a85Decode_of_malformed (hnone : a85Content (visible body) = none) :
    ∃ u, a85Decode s = .raise .a85Invalid u ∧ Kept s u ∧ u.out = a85Opening (visible body) := by
  obtain ⟨u, hkept, h⟩ := a85DecodeLazy_ends hbody hinput hip hwork hout (-1)
  rcases h with ⟨hopening, ⟨-, hsome⟩ | ⟨hraise, -⟩⟩ | ⟨-, -, hfull⟩
  · simp [hnone] at hsome
  · exact ⟨u, hraise, hkept, hopening⟩
  · simp [checkBufLen_neg] at hfull

end

/-- Settles O31: the scan of the body (`loop_scan`) delivers what it stands for, all or under the limit, or raises behind its
opening; what is behind the terminator is not read. -/
theorem ascii85DecodesTheBody : Obligations.Ascii85DecodesTheBody := by
  intro body junk n s hbody hs hn
  refine ⟨fun y hy => ⟨?decode, ?decodelen⟩, fun hnone => ?malformed⟩
  case decode =>
    obtain ⟨u, hstop, hkept, rfl⟩ := (a85DecodeLazy_of_content (s := startData _ (some (-1)) s) hbody rfl rfl rfl rfl hy
      (-1)).unlimited (by decide)
    exact dataCommand_of_stop hs (by simp) hstop hkept
  case decodelen =>
    obtain ⟨u, hstop, hkept, hopens, hlen⟩ := boundedDecode_of_stopsWithin (k := .ascii85)
      (a85DecodeLazy_of_content (s := startData _ (some (n : Int)) s) hbody rfl rfl rfl rfl hy) (Int.natCast_nonneg n)
    obtain ⟨t, hexec, hok, hout, hrest⟩ := dataCommand_of_stop (limit := some (n : Int)) hs hn hstop hkept
    exact ⟨t, hexec, hok, hout ▸ hopens, hout ▸ hlen, hrest⟩
  case malformed =>
    obtain ⟨u, hraise, hkept, hopening⟩ := a85Decode_of_malformed
      (s := startData (body ++ 0x7E :: 0x3E :: junk) (some (-1)) s) hbody rfl rfl rfl rfl hnone
    refine ⟨dataCommand_of_raise hs (by simp) hraise hkept, ?_⟩
    have hlazy : lazyOf .ascii85 (-1) (startData (body ++ 0x7E :: 0x3E :: junk) (some (-1)) s) =
        .raise .a85Invalid u := hraise
    rw [traceOf, hlazy, Flow.trace, hopening]
    rfl

end Sys2Proof.Proofs.Ascii85Decode
end

section
/-! ENCODE on an ASCII85 instance (44_ascii85.md R200 to R202): the encoder's rounds follow the recursion of `a85Text`, four
bytes at a time, and no character of a group reaches the `~` of the terminator. -/

namespace Sys2Proof.Proofs.Ascii85Encode

open Sys2Proof Sys2Proof.Machine Sys2Proof.Streams Sys2Proof.Proofs.LzwDecode

/-! ## The characters of a group -/

theorem a85Chars_eq (v n : Nat) : a85Chars v n = a85Characters v n := by
  simp only [a85Chars, a85Characters, a85Digits, Nat.add_comm]

theorem a85Word_eq (b0 b1 b2 b3 : Byte) : a85Word [b0, b1, b2, b3] = a85WordOf b0 b1 b2 b3 := by
  simp only [a85Word, a85WordOf, List.foldl_cons, List.foldl_nil]
  omega

theorem a85WordOf_lt (b0 b1 b2 b3 : Byte) : a85WordOf b0 b1 b2 b3 < 2 ^ 32 := by
  have h0 := b0.isLt
  have h1 := b1.isLt
  have h2 := b2.isLt
  have h3 := b3.isLt
  unfold a85WordOf
  omega

theorem tilde_ne_digit {d : Nat} (h : d < 85) : (0x7E : Byte) ≠ BitVec.ofNat 8 (33 + d) := by
  intro heq
  have hnat := congrArg BitVec.toNat heq
  rw [BitVec.toNat_ofNat, Nat.mod_eq_of_lt (by omega)] at hnat
  simp at hnat
  omega

/-- The digits of a word are below 85, so no character is a `~` (44_ascii85.md R202). -/
theorem tilde_notMem_a85Characters {v : Nat} (h : v < 2 ^ 32) (n : Nat) : (0x7E : Byte) ∉ a85Characters v n := by
  intro hmem
  obtain ⟨d, hd, heq⟩ := List.mem_map.1 hmem
  refine tilde_ne_digit ?_ heq.symm
  have hdigit := List.mem_of_mem_take hd
  simp only [List.mem_cons, List.not_mem_nil, or_false] at hdigit
  omega

theorem tilde_notMem_a85Text (d : Bytes) : (0x7E : Byte) ∉ a85Text d := by
  induction d using a85Text.induct with
  | case1 b0 b1 b2 b3 rest ih =>
    rw [a85Text, List.mem_append, not_or]
    refine ⟨?_, ih⟩
    split
    · decide
    · exact tilde_notMem_a85Characters (a85WordOf_lt ..) 5
  | case2 | case3 | case4 => exact tilde_notMem_a85Characters (a85WordOf_lt ..) _
  | case5 => exact List.not_mem_nil

/-! ## The encoder's rounds -/

/-- A full group is written as five characters, or `z` (44_ascii85.md R200). -/
theorem a85EncodeNext_of_four {s : State} {b0 b1 b2 b3 : Byte} {rest : Bytes}
    (h : s.input.drop s.ip = b0 :: b1 :: b2 :: b3 :: rest) :
    a85EncodeNext s =
      .more { emit (if a85WordOf b0 b1 b2 b3 = 0 then [0x7A] else a85Characters (a85WordOf b0 b1 b2 b3) 5) s with
        ip := s.ip + 4 } := by
  have hlen := congrArg List.length h
  simp only [List.length_drop, List.length_cons] at hlen
  have hread : memRead s.input s.ip 4 = some [b0, b1, b2, b3] :=
    memRead_eq_some.2 ⟨by omega, congrArg (List.take 4) h.symm⟩
  rw [a85EncodeNext, hread]
  simp only [a85Word_eq, a85Chars_eq]

/-- The encoder pads a last part of fewer than four bytes with zeros (44_ascii85.md R201). -/
theorem partialGroup_eq {tail : Bytes} (hshort : tail.length < 4) :
    (if tail = [] then [] else a85Chars (a85Word (tail ++ List.replicate (4 - tail.length) 0)) (tail.length + 1)) =
      a85Text tail := by
  match tail, hshort with
  | [], _ => rfl
  | [b0], _ => exact (a85Chars_eq _ _).trans (congrArg (a85Characters · 2) (a85Word_eq b0 0 0 0))
  | [b0, b1], _ => exact (a85Chars_eq _ _).trans (congrArg (a85Characters · 3) (a85Word_eq b0 b1 0 0))
  | [b0, b1, b2], _ => exact (a85Chars_eq _ _).trans (congrArg (a85Characters · 4) (a85Word_eq b0 b1 b2 0))

/-- Fewer than four bytes are written as a partial group, and the terminator behind it (44_ascii85.md R201, R202). -/
theorem a85EncodeNext_of_short {s : State} (hshort : (s.input.drop s.ip).length < 4) :
    a85EncodeNext s =
      .stop { emit (a85Text (s.input.drop s.ip) ++ [0x7E, 0x3E]) s with ip := s.ip + (s.input.drop s.ip).length } := by
  have hend : s.input.length < s.ip + 4 := by rw [List.length_drop] at hshort; omega
  rw [a85EncodeNext, memRead_eq_none.2 hend]
  simp only [partialGroup_eq hshort]

/-! ## The encoder -/

/-- As many rounds as there are bytes, and one for the end, write the text of the bytes still to read and the terminator. -/
theorem loop_a85EncodeNext {s : State} {d : Bytes} {n : Nat} (hd : s.input.drop s.ip = d) (hn : d.length < n) :
    ∃ u, loop (-1) a85EncodeNext Flow.more n s = .stop u ∧ Kept s u ∧
      u.out = s.out ++ (a85Text d ++ [0x7E, 0x3E]) := by
  obtain ⟨n, rfl⟩ := Nat.exists_eq_succ_of_ne_zero (Nat.ne_of_gt (Nat.zero_lt_of_lt hn))
  induction d using a85Text.induct generalizing n s with
  | case1 b0 b1 b2 b3 rest ih =>
    simp only [List.length_cons] at hn
    obtain ⟨n, rfl⟩ := Nat.exists_eq_succ_of_ne_zero (show n ≠ 0 by omega)
    have hfour := a85EncodeNext_of_four hd
    have hrest : s.input.drop (s.ip + 4) = rest := by rw [← List.drop_drop, hd]; rfl
    rw [loop_step (checkBufLen_neg (by decide)) hfour, a85Text, List.append_assoc, ← List.append_assoc s.out]
    exact ih hrest n (by omega)
  | case2 | case3 | case4 | case5 =>
    have hshort := a85EncodeNext_of_short (s := s) (by simp [hd])
    rw [hd] at hshort
    exact ⟨_, loop_end (checkBufLen_neg (by decide)) hshort (by simp), ⟨rfl, rfl, rfl, rfl⟩, rfl⟩

theorem a85Encode_stops {s : State} (hip : s.ip = 0) (hout : s.out = []) :
    ∃ u, a85Encode s = .stop u ∧ Kept s u ∧ u.out = a85Text s.input ++ [0x7E, 0x3E] := by
  have hinput : s.input.drop s.ip = s.input := by rw [hip, List.drop_zero]
  have hstops := loop_a85EncodeNext hinput (Nat.lt_succ_self s.input.length)
  rwa [hout] at hstops

/-- Settles O29: `a85Encode_stops` from the state the command starts in; `tilde_notMem_a85Text` keeps `~` out of the text. -/
theorem ascii85EncoderText : Obligations.Ascii85EncoderText := by
  intro d s hs
  obtain ⟨u, hstop, hkept, hout⟩ := a85Encode_stops (s := startData d none s) rfl rfl
  obtain ⟨t, hexec, hdelivers⟩ := dataCommand_of_stop (body := a85Encode) hs rfl hstop hkept
  exact ⟨t, hexec, hout ▸ hdelivers, tilde_notMem_a85Text d⟩

end Sys2Proof.Proofs.Ascii85Encode
end

section
/-! DECODE and DECODELEN on an ASCIIHex instance (45_asciihex.md R211 to R218). `scanned` is the decoder's state behind the
opening of the input it has read: the whole pairs of that opening's digits are in OUT, and an odd last one is in `hi`. -/

namespace Sys2Proof.Proofs.AsciiHexDecode

open Sys2Proof Sys2Proof.Machine Sys2Proof.Streams Sys2Proof.Proofs.LzwDecode Sys2Proof.Proofs.BoundedDecode

/-! ## Digit sequences -/

/-- The last digit of a sequence, where it has no partner: what the register `hi` holds behind it (45_asciihex.md R213). -/
def loneDigit : List (BitVec 4) → Option (BitVec 4)
  | _ :: _ :: rest => loneDigit rest
  | [h] => some h
  | [] => none

/-- The content of a sequence is its whole pairs, and its lone digit padded with 0 (45_asciihex.md R214). -/
theorem hexContent_eq (ds : List (BitVec 4)) :
    hexContent ds = hexPairs ds ++ (loneDigit ds).toList.map (· ++ 0#4) := by
  induction ds using hexPairs.induct with
  | case1 h l rest ih => rw [hexContent, hexPairs, loneDigit, ih, List.cons_append]
  | case2 | case3 => rfl

theorem hexPairs_prefix_append (ds more : List (BitVec 4)) : hexPairs ds <+: hexPairs (ds ++ more) := by
  induction ds using hexPairs.induct with
  | case1 h l rest ih => exact List.prefix_cons_inj _ |>.2 ih
  | case2 | case3 => exact List.nil_prefix

/-- Behind whole pairs a digit is the first of its pair. -/
theorem append_digit_of_noLone {ds : List (BitVec 4)} (h : loneDigit ds = none) (v : BitVec 4) :
    hexPairs (ds ++ [v]) = hexPairs ds ∧ loneDigit (ds ++ [v]) = some v := by
  induction ds using hexPairs.induct with
  | case1 a b rest ih =>
    obtain ⟨hpairs, hlone⟩ := ih h
    exact ⟨congrArg (_ :: ·) hpairs, hlone⟩
  | case2 a => cases h
  | case3 => exact ⟨rfl, rfl⟩

/-- Behind a lone digit a digit completes the pair. -/
theorem append_digit_of_lone {ds : List (BitVec 4)} {d : BitVec 4} (h : loneDigit ds = some d) (v : BitVec 4) :
    hexPairs (ds ++ [v]) = hexPairs ds ++ [d ++ v] ∧ loneDigit (ds ++ [v]) = none := by
  induction ds using hexPairs.induct with
  | case1 a b rest ih =>
    obtain ⟨hpairs, hlone⟩ := ih h
    exact ⟨congrArg (_ :: ·) hpairs, hlone⟩
  | case2 a =>
    cases h
    exact ⟨rfl, rfl⟩
  | case3 => cases h

/-! ## The digits of a body -/

/-- A body of digits and white space (45_asciihex.md R212, R213). -/
def IsBody (body : Bytes) : Prop :=
  ∀ ch ∈ body, ch ∈ whiteSpace ∨ (hexVal ch).isSome = true

theorem hexVal_of_ws : ∀ ch ∈ whiteSpace, hexVal ch = none := by decide

theorem hexVal_eod : hexVal 0x3E = none := by decide

theorem ne_eod_of_ws {ch : Byte} (h : ch ∈ whiteSpace) : ch ≠ 0x3E := by
  rintro rfl
  exact absurd h (by decide)

theorem ne_eod_of_digit {ch : Byte} {v : BitVec 4} (h : hexVal ch = some v) : ch ≠ 0x3E := by
  rintro rfl
  exact absurd (hexVal_eod.symm.trans h) (by simp)

/-- The values of the digits in a byte sequence, in their order. -/
def digitsOf (l : Bytes) : List (BitVec 4) :=
  l.filterMap hexVal

theorem digitsOf_append_digit {ch : Byte} {v : BitVec 4} (h : hexVal ch = some v) (l : Bytes) :
    digitsOf (l ++ [ch]) = digitsOf l ++ [v] := by
  simp [digitsOf, h]

theorem digitsOf_append_noDigit {ch : Byte} (h : hexVal ch = none) (l : Bytes) : digitsOf (l ++ [ch]) = digitsOf l := by
  simp [digitsOf, h]

/-! ## The decoder's state -/

/-- The state of a decode that began at `s` and has read `front`. -/
def scanned (s : State) (front : Bytes) : State :=
  { s with
    ip := front.length
    out := s.out ++ hexPairs (digitsOf front)
    work := { s.work with hi := loneDigit (digitsOf front) } }

theorem kept_scanned (s : State) (front : Bytes) : Kept s (scanned s front) :=
  ⟨rfl, rfl, rfl, rfl⟩

theorem scanned_out (s : State) (front : Bytes) : (scanned s front).out = s.out ++ hexPairs (digitsOf front) := rfl

theorem scanned_start {s : State} (hip : s.ip = 0) (hhi : s.work.hi = none) : scanned s [] = s := by
  have hwork : { s.work with hi := loneDigit (digitsOf []) } = s.work := by
    rw [show loneDigit (digitsOf []) = s.work.hi from hhi.symm]
  have hout : s.out ++ hexPairs (digitsOf []) = s.out := List.append_nil _
  rw [scanned, hwork, hout, List.length_nil, ← hip]

/-- The state in which the symbol behind `front` is executed: its byte is read, and counts in nothing yet. -/
def fetched (s : State) (front : Bytes) : State :=
  { scanned s front with ip := front.length + 1 }

theorem fetched_eq_scanned {c : Byte} (hc : hexVal c = none) (s : State) (front : Bytes) :
    fetched s front = scanned s (front ++ [c]) := by
  rw [fetched, scanned, scanned, digitsOf_append_noDigit hc, List.length_append, List.length_singleton]

/-! ## One byte -/

/-- A digit waits in `hi`, or completes the pair of the one that does (45_asciihex.md R213). -/
theorem hexDigit_fetched {c : Byte} {v : BitVec 4} (hc : hexVal c = some v) (s : State) (front : Bytes) :
    hexDigit c (fetched s front) = .more (scanned s (front ++ [c])) := by
  have hhi : (fetched s front).work.hi = loneDigit (digitsOf front) := rfl
  rw [hexDigit, hc]
  simp only [hhi]
  cases hlone : loneDigit (digitsOf front) with
  | none =>
    obtain ⟨hpairs, hlone'⟩ := append_digit_of_noLone hlone v
    simp [setHi, fetched, scanned, digitsOf_append_digit hc, hpairs, hlone']
  | some d =>
    obtain ⟨hpairs, hlone'⟩ := append_digit_of_lone hlone v
    simp [setHi, emit, fetched, scanned, digitsOf_append_digit hc, hpairs, hlone']

section
variable {s : State} {front rest : Bytes} {c : Byte} (hinput : s.input = front ++ c :: rest)
include hinput

/-- The next byte is dispatched by its class (45_asciihex.md R211). -/
theorem hexNext_scanned :
    hexNext (scanned s front) =
      hexCases c (fun ch => hexDigit ch (fetched s front)) (hexEod (fetched s front)) (fun ch => hexWs ch (fetched s front))
        fun ch => hexIllegal ch (fetched s front) := by
  have hread : inByte (scanned s front) = some (c, fetched s front) :=
    inByte_eq_some.2 ⟨by simp [scanned, hinput], rfl⟩
  rw [hexNext, hread]

/-- A digit or white space goes on to the next byte (45_asciihex.md R212, R213). -/
theorem hexNext_of_bodyByte (hc : c ∈ whiteSpace ∨ (hexVal c).isSome = true) :
    hexNext (scanned s front) = .more (scanned s (front ++ [c])) := by
  rw [hexNext_scanned hinput, hexCases]
  by_cases hws : c ∈ whiteSpace
  · rw [if_neg (ne_eod_of_ws hws), if_pos hws, ← fetched_eq_scanned (hexVal_of_ws c hws)]
    exact if_pos hws
  · have hsome := hc.resolve_left hws
    obtain ⟨v, hv⟩ := Option.isSome_iff_exists.1 hsome
    rw [if_neg (ne_eod_of_digit hv), if_neg hws, if_pos hsome, hexDigit_fetched hv]

/-- A byte of no class raises E_HEX_INVALID (45_asciihex.md R216). -/
theorem hexNext_of_illegal (hws : c ∉ whiteSpace) (heod : c ≠ 0x3E) (hc : hexVal c = none) :
    hexNext (scanned s front) = .raise .hexInvalid (scanned s (front ++ [c])) := by
  have hdigit : ¬ (hexVal c).isSome = true := by simp [hc]
  rw [hexNext_scanned hinput, hexCases, if_neg heod, if_neg hws, if_neg hdigit, ← fetched_eq_scanned hc]
  rfl

end

/-- The terminator ends the decode with the content of the digits before it (45_asciihex.md R214, R215). -/
theorem hexNext_of_eod {s : State} {front rest : Bytes} (hinput : s.input = front ++ 0x3E :: rest) :
    ∃ u, hexNext (scanned s front) = .stop u ∧ Kept s u ∧ u.out = s.out ++ hexContent (digitsOf front) := by
  have hhi : (fetched s front).work.hi = loneDigit (digitsOf front) := rfl
  have heod : hexNext (scanned s front) = hexEod (fetched s front) := (hexNext_scanned hinput).trans (if_pos rfl)
  rw [heod, hexContent_eq, hexEod, ← List.append_assoc]
  simp only [hhi]
  cases loneDigit (digitsOf front) with
  | none => exact ⟨_, rfl, ⟨rfl, rfl, rfl, rfl⟩, (List.append_nil _).symm⟩
  | some d => exact ⟨_, rfl, ⟨rfl, rfl, rfl, rfl⟩, rfl⟩

/-- The end of the input before the terminator raises E_HEX_MISSING_EOD (45_asciihex.md R217). -/
theorem hexNext_at_end {s : State} {front : Bytes} (hinput : s.input = front) :
    hexNext (scanned s front) = .raise .hexMissingEod (scanned s front) := by
  have hread : inByte (scanned s front) = none := inByte_eq_none.2 (congrArg List.length hinput).le
  rw [hexNext, hread]

/-! ## The whole body -/

/-- As many rounds as the body has bytes reach its end, unless the limit stops them on the way. -/
theorem loop_scan {s : State} {front rest tail : Bytes} {limit : Int} (n : Nat) (hbody : IsBody rest)
    (hinput : s.input = front ++ (rest ++ tail)) :
    loop limit hexNext Flow.more (rest.length + n) (scanned s front) =
        loop limit hexNext Flow.more n (scanned s (front ++ rest)) ∨
      ∃ mid, mid <+: front ++ rest ∧ checkBufLen (scanned s mid).out.length limit = false ∧
        loop limit hexNext Flow.more (rest.length + n) (scanned s front) = .stop (scanned s mid) := by
  induction rest generalizing front with
  | nil => exact .inl (by rw [List.append_nil, List.length_nil, Nat.zero_add])
  | cons c rest ih =>
    cases hlimit : checkBufLen (scanned s front).out.length limit with
    | false => exact .inr ⟨front, List.prefix_append _ _, hlimit, loop_full hlimit⟩
    | true =>
      obtain ⟨hc, hrest⟩ := List.forall_mem_cons.1 hbody
      have hsteps := ih (front := front ++ [c]) hrest (by simpa using hinput)
      rw [List.length_cons, Nat.add_right_comm, loop_step hlimit (hexNext_of_bodyByte hinput hc),
        List.append_cons front c rest]
      exact hsteps

section
variable {s : State} {body tail : Bytes} (hbody : IsBody body) (hinput : s.input = body ++ tail) (hip : s.ip = 0)
  (hwork : s.work = Work.initial) (hout : s.out = [])
include hbody hinput hip hwork

/-- The decode ends as the byte behind the body does, or is stopped by the limit on the way. -/
theorem hexDecodeLazy_ends (limit : Int) {f : Flow} (hend : hexNext (scanned s body) = f) (hf : ∀ u, f ≠ .more u) :
    hexDecodeLazy limit s = f ∨
      ∃ mid, mid <+: body ∧ checkBufLen (scanned s mid).out.length limit = false ∧
        hexDecodeLazy limit s = .stop (scanned s mid) := by
  have hhi : s.work.hi = none := by rw [hwork]; rfl
  have hrounds : hexDecodeLazy limit s =
      loop limit hexNext Flow.more (body.length + (tail.length + 1)) (scanned s []) := by
    rw [scanned_start hip hhi, hexDecodeLazy, symbolLoop, hinput, List.length_append, Nat.add_assoc]
  rw [hrounds]
  rcases loop_scan (front := []) (limit := limit) (tail.length + 1) hbody hinput with hscan | hstopped
  · rw [hscan, List.nil_append]
    cases hlimit : checkBufLen (scanned s body).out.length limit with
    | false => exact .inr ⟨body, List.prefix_rfl, hlimit, loop_full hlimit⟩
    | true => exact .inl (loop_end hlimit hend hf)
  · exact .inr hstopped

/-- Without a limit it ends as that byte does. -/
theorem hexDecode_ends {f : Flow} (hend : hexNext (scanned s body) = f) (hf : ∀ u, f ≠ .more u) : hexDecode s = f := by
  rcases hexDecodeLazy_ends hbody hinput hip hwork (-1) hend hf with hends | ⟨mid, -, hlimit, -⟩
  · exact hends
  · simp [checkBufLen_neg] at hlimit

include hout

/-- With the terminator behind it the body is decoded to its content, all or until the limit is reached. -/
theorem hexDecodeLazy_of_eod {junk : Bytes} (htail : tail = 0x3E :: junk) (limit : Int) :
    StopsWithin limit s (hexContent (digitsOf body)) (hexDecodeLazy limit s) := by
  obtain ⟨u, hend, hkept, hcontent⟩ := hexNext_of_eod (hinput.trans (congrArg (body ++ ·) htail))
  rw [hout, List.nil_append] at hcontent
  rcases hexDecodeLazy_ends hbody hinput hip hwork limit hend (by simp) with hall | ⟨mid, hmid, hlimit, hstop⟩
  · exact ⟨u, hall, hkept, hcontent ▸ List.prefix_rfl, .inl hcontent⟩
  · refine ⟨scanned s mid, hstop, kept_scanned s mid, ?_, .inr hlimit⟩
    obtain ⟨rest, rfl⟩ := hmid
    calc (scanned s mid).out
        = hexPairs (digitsOf mid) := by rw [scanned_out, hout, List.nil_append]
      _ <+: hexPairs (digitsOf (mid ++ rest)) := by
        rw [digitsOf, digitsOf, List.filterMap_append]
        exact hexPairs_prefix_append _ _
      _ <+: hexContent (digitsOf (mid ++ rest)) := by
        rw [hexContent_eq]
        exact List.prefix_append _ _

end

/-! ## The two faults -/

/-- A decode that raises behind the whole pairs of some digits. -/
def RaisesBehind (s : State) (e : EngineError) (ds : List (BitVec 4)) : Prop :=
  ∃ u, hexDecode s = .raise e u ∧ Kept s u ∧ u.out = hexPairs ds

section
variable {s : State} {body : Bytes} (hbody : IsBody body) (hip : s.ip = 0) (hwork : s.work = Work.initial)
  (hout : s.out = [])
include hbody hip hwork hout

theorem hexDecode_missingEod (hinput : s.input = body) : RaisesBehind s .hexMissingEod (digitsOf body) := by
  refine ⟨scanned s body, ?_, kept_scanned s body, by rw [scanned_out, hout, List.nil_append]⟩
  exact hexDecode_ends hbody (hinput.trans (List.append_nil body).symm) hip hwork (hexNext_at_end hinput) (by simp)

theorem hexDecode_illegal {bad : Byte} {junk : Bytes} (hinput : s.input = body ++ bad :: junk) (hws : bad ∉ whiteSpace)
    (heod : bad ≠ 0x3E) (hbad : hexVal bad = none) : RaisesBehind s .hexInvalid (digitsOf body) := by
  refine ⟨scanned s (body ++ [bad]), ?_, kept_scanned s _, ?_⟩
  · exact hexDecode_ends hbody hinput hip hwork (hexNext_of_illegal hinput hws heod hbad) (by simp)
  · rw [scanned_out, hout, List.nil_append, digitsOf_append_noDigit hbad]

end

section
variable {s : State} {input : Bytes} {e : EngineError} {ds : List (BitVec 4)}
  (h : RaisesBehind (startData input (some (-1)) s) e ds)
include h

theorem RaisesBehind.decode_fails (hs : Ready s) :
    ∃ t, exec (.decodeAsciihex input) s = .next t ∧ FailsAs (.error e) { s with input := input } t := by
  obtain ⟨u, hraise, hkept, -⟩ := h
  exact dataCommand_of_raise hs (by simp) hraise hkept

theorem RaisesBehind.traceOf_eq : traceOf .asciiHex input s = some (hexPairs ds, some e) := by
  obtain ⟨u, hraise, -, hpairs⟩ := h
  have hlazy : lazyOf .asciiHex (-1) (startData input (some (-1)) s) = .raise e u := hraise
  rw [traceOf, hlazy, Flow.trace, hpairs]

end

/-- Settles O25: the scan of the body (`hexDecodeLazy_ends`) ends as the byte behind it does; at the terminator the content is
delivered, all or under the limit, and the two faults raise behind the whole pairs. -/
theorem hexDecodesDigitsAndWhiteSpace : Obligations.HexDecodesDigitsAndWhiteSpace := by
  intro body junk bad n s hbody hws heod hbad hs hn
  have hmissing : RaisesBehind (startData body (some (-1)) s) .hexMissingEod (digitsOf body) :=
    hexDecode_missingEod hbody rfl rfl rfl rfl
  have hillegal : RaisesBehind (startData (body ++ bad :: junk) (some (-1)) s) .hexInvalid (digitsOf body) :=
    hexDecode_illegal hbody rfl rfl rfl rfl hws heod hbad
  refine ⟨?decode, ?decodelen, hmissing.decode_fails hs, hillegal.decode_fails hs, hmissing.traceOf_eq, hillegal.traceOf_eq⟩
  case decode =>
    obtain ⟨u, hstop, hkept, hall⟩ := (hexDecodeLazy_of_eod (s := startData (body ++ 0x3E :: junk) (some (-1)) s) hbody rfl
      rfl rfl rfl rfl (-1)).unlimited (by decide)
    rw [digitsOf] at hall
    rw [← hall]
    exact dataCommand_of_stop hs (by simp) hstop hkept
  case decodelen =>
    obtain ⟨u, hstop, hkept, hopens, hlen⟩ := boundedDecode_of_stopsWithin (k := .asciiHex)
      (hexDecodeLazy_of_eod (s := startData (body ++ 0x3E :: junk) (some (n : Int)) s) hbody rfl rfl rfl rfl rfl)
      (Int.natCast_nonneg n)
    obtain ⟨t, hexec, hok, hout, hrest⟩ := dataCommand_of_stop (limit := some (n : Int)) hs hn hstop hkept
    exact ⟨t, hexec, hok, hout ▸ hopens, hout ▸ hlen, hrest⟩

end Sys2Proof.Proofs.AsciiHexDecode
end

section
/-! ENCODE on an ASCIIHex instance (45_asciihex.md R219): the encoder's rounds follow the bytes of the input, two lower-case
digits each, and the terminator ends the text. -/

namespace Sys2Proof.Proofs.AsciiHexEncode

open Sys2Proof Sys2Proof.Machine Sys2Proof.Streams Sys2Proof.Proofs.LzwDecode

/-! ## The text of a byte -/

theorem hexChar_eq : ∀ n : BitVec 4, hexChar n = hexLower n.toNat := by decide

theorem hexChars_eq (b : Byte) : hexChars b = [hexLower (b.toNat / 16), hexLower (b.toNat % 16)] := by
  have hhigh : (b.extractLsb' 4 4).toNat = b.toNat / 16 := by
    have hlt := b.isLt
    rw [BitVec.extractLsb'_toNat, Nat.shiftRight_eq_div_pow]
    omega
  have hlow : (b.extractLsb' 0 4).toNat = b.toNat % 16 := BitVec.extractLsb'_toNat ..
  rw [hexChars, hexChar_eq, hexChar_eq, hhigh, hlow]

theorem hexText_cons (b : Byte) (rest : Bytes) : hexText (b :: rest) = hexChars b ++ hexText rest := by
  rw [hexChars_eq]
  rfl

theorem hexText_length (d : Bytes) : (hexText d).length = 2 * d.length := by
  induction d with
  | nil => rfl
  | cons b rest ih =>
    rw [hexText_cons, List.length_append, ih, List.length_cons, Nat.mul_succ, Nat.add_comm]
    rfl

/-! ## The encoder -/

/-- As many rounds as there are bytes, and one for the end, write the text of the bytes still to read and the terminator. -/
theorem loop_hexEncodeNext {s : State} {d : Bytes} (hd : s.input.drop s.ip = d) (n : Nat) :
    ∃ u, loop (-1) hexEncodeNext Flow.more (d.length + (n + 1)) s = .stop u ∧ Kept s u ∧
      u.out = s.out ++ (hexText d ++ [0x3E]) := by
  induction d generalizing s with
  | nil =>
    have hread : inByte s = none := inByte_eq_none.2 (List.drop_eq_nil_iff.1 hd)
    have hstop : hexEncodeNext s = .stop (emit [0x3E] s) := by rw [hexEncodeNext, hread]
    rw [List.length_nil, Nat.zero_add]
    exact ⟨_, loop_end (checkBufLen_neg (by decide)) hstop (by simp), ⟨rfl, rfl, rfl, rfl⟩, rfl⟩
  | cons b rest ih =>
    have hread : inByte s = some (b, { s with ip := s.ip + 1 }) :=
      inByte_eq_some.2 ⟨by rw [← List.head?_drop, hd]; rfl, rfl⟩
    have hmore : hexEncodeNext s = .more (emit (hexChars b) { s with ip := s.ip + 1 }) := by rw [hexEncodeNext, hread]
    have hrest : s.input.drop (s.ip + 1) = rest := by rw [← List.drop_drop, hd]; rfl
    rw [List.length_cons, Nat.add_right_comm, loop_step (checkBufLen_neg (by decide)) hmore, hexText_cons,
      List.append_assoc, ← List.append_assoc s.out]
    exact ih hrest

theorem hexEncode_stops {s : State} (hip : s.ip = 0) (hout : s.out = []) :
    ∃ u, hexEncode s = .stop u ∧ Kept s u ∧ u.out = hexText s.input ++ [0x3E] := by
  have hinput : s.input.drop s.ip = s.input := by rw [hip, List.drop_zero]
  have hstops := loop_hexEncodeNext hinput 0
  rwa [hout] at hstops

/-- Settles O24: `hexEncode_stops` from the state the command starts in; each byte has two characters (`hexText_length`). -/
theorem hexEncoderWritesLowerCase : Obligations.HexEncoderWritesLowerCase := by
  intro d s hs
  obtain ⟨u, hstop, hkept, hout⟩ := hexEncode_stops (s := startData d none s) rfl rfl
  obtain ⟨t, hexec, hdelivers⟩ := dataCommand_of_stop (body := hexEncode) hs rfl hstop hkept
  obtain ⟨hok, hdelivered, hrest⟩ := hdelivers
  have htext : t.out = hexText d ++ [0x3E] := hdelivered.trans hout
  refine ⟨t, hexec, ⟨hok, htext, hrest⟩, ?_⟩
  rw [htext, List.length_append, hexText_length]
  rfl

end Sys2Proof.Proofs.AsciiHexEncode
end

section
/-! The RunLength decoder (46_runlength.md R226 to R231). `unpacked` is its state behind packets it has read: their content is
in OUT. The packets themselves (R227, R229, R230) are stated on the symbols, and `rlNext` runs the one its length byte names. -/

namespace Sys2Proof.Proofs.RunLengthDecode

open Sys2Proof Sys2Proof.Machine Sys2Proof.Streams Sys2Proof.Proofs.Predictor Sys2Proof.Proofs.LzwDecode
open Sys2Proof.Proofs.BoundedDecode

/-! ## The packets -/

section
variable {len : BitVec 7} {s : State}

/-- A literal packet with all its bytes (46_runlength.md R227). -/
theorem rlLit_of_le (h : s.ip + (len.toNat + 1) ≤ s.input.length) :
    rlLit len s =
      .more
        { s with
          out := s.out ++ (s.input.drop s.ip).take (len.toNat + 1)
          ip := s.ip + (len.toNat + 1) } := by
  rw [rlLit, memRead_eq_some.2 ⟨h, rfl⟩]
  rfl

/-- A literal packet cut short (46_runlength.md R228). -/
theorem rlLit_of_lt (h : s.input.length < s.ip + (len.toNat + 1)) : rlLit len s = .raise .rlTruncated s := by
  rw [rlLit, memRead_eq_none.2 h]

/-- A repeat packet with its byte (46_runlength.md R229). -/
theorem rlRep_of_byte {b : Byte} (hlen : len ≠ 0) (h : s.input[s.ip]? = some b) :
    rlRep len s = .more { s with out := s.out ++ List.replicate (repCount len) b, ip := s.ip + 1 } := by
  rw [rlRep, if_neg hlen, inByte_eq_some.2 ⟨h, rfl⟩]
  rfl

/-- A repeat packet cut short (46_runlength.md R228). -/
theorem rlRep_of_le (hlen : len ≠ 0) (h : s.input.length ≤ s.ip) : rlRep len s = .raise .rlTruncated s := by
  rw [rlRep, if_neg hlen, inByte_eq_none.2 h]

end

/-- Settles O19: each clause is the symbol's own equation. -/
theorem runLengthPackets : Obligations.RunLengthPackets := by
  refine ⟨?lit, ?litShort, ?rep, ?repShort, ?eod⟩
  case lit =>
    intro len s h
    exact congrArg settleSymbol (rlLit_of_le h)
  case litShort =>
    intro len s h
    exact ⟨_, congrArg settleSymbol (rlLit_of_lt h), failsAs_endError _ s⟩
  case rep =>
    intro len s b hlen h
    exact congrArg settleSymbol (rlRep_of_byte hlen h)
  case repShort =>
    intro len s hlen h
    exact ⟨_, congrArg settleSymbol (rlRep_of_le hlen h), failsAs_endError _ s⟩
  case eod =>
    intro s hcap
    exact ⟨endOk s, settleSymbol_stop hcap, endsOkAs_endOk s⟩

/-! ## The length byte (30_encoding.md R78) -/

/-- The field of a length byte: its low seven bits. -/
theorem lengthField_toNat (L : Byte) : (L.extractLsb' 0 7).toNat = L.toNat % 128 :=
  BitVec.extractLsb'_toNat ..

theorem lengthField_ne_zero {L : Byte} (h : 128 < L) : L.extractLsb' 0 7 ≠ 0 := by
  intro hzero
  have hfield : L.toNat % 128 = 0 := by
    rw [← lengthField_toNat, hzero]
    rfl
  have hL : 128 < L.toNat := BitVec.lt_def.1 h
  have hlt := L.isLt
  omega

/-- The count of a repeat packet is 257 less its length byte (46_runlength.md R229). -/
theorem repCount_lengthField {L : Byte} (h : 128 < L) : repCount (L.extractLsb' 0 7) = 257 - L.toNat := by
  have hL : 128 < L.toNat := BitVec.lt_def.1 h
  have hlt := L.isLt
  rw [repCount, lengthField_toNat]
  omega

/-- Bit 7 tells the two packets apart. -/
theorem getLsbD_seven (L : Byte) : L.getLsbD 7 = decide (128 ≤ L.toNat) :=
  BitVec.msb_eq_decide L

section
variable {α : Type} {L : Byte} (lit : BitVec 7 → α) (eod : α) (rep : BitVec 7 → α)

theorem rlCases_of_lt (h : L < 128) : rlCases L lit eod rep = lit (L.extractLsb' 0 7) := by
  have hL : L.toNat < 128 := BitVec.lt_def.1 h
  have hbit : L.getLsbD 7 = false := by rw [getLsbD_seven, decide_eq_false (Nat.not_le.2 hL)]
  rw [rlCases, if_neg (BitVec.ne_of_lt h), if_pos hbit]

theorem rlCases_of_gt (h : 128 < L) : rlCases L lit eod rep = rep (L.extractLsb' 0 7) := by
  have hL : 128 < L.toNat := BitVec.lt_def.1 h
  have hbit : ¬ L.getLsbD 7 = false := by simp [getLsbD_seven, hL.le]
  rw [rlCases, if_neg (BitVec.ne_of_lt h).symm, if_neg hbit]

end

section
variable {s : State} {L : Byte} {l : Bytes} (hdrop : s.input.drop s.ip = L :: l)
include hdrop

theorem inByte_of_drop : inByte s = some (L, { s with ip := s.ip + 1 }) :=
  inByte_eq_some.2 ⟨by rw [← List.head?_drop, hdrop]; rfl, rfl⟩

theorem drop_succ_of_drop : s.input.drop (s.ip + 1) = l := by
  rw [← List.drop_drop, hdrop]
  rfl

theorem rlNext_of_lt (h : L < 128) : rlNext s = rlLit (L.extractLsb' 0 7) { s with ip := s.ip + 1 } := by
  rw [rlNext, inByte_of_drop hdrop]
  exact rlCases_of_lt _ _ _ h

theorem rlNext_of_gt (h : 128 < L) : rlNext s = rlRep (L.extractLsb' 0 7) { s with ip := s.ip + 1 } := by
  rw [rlNext, inByte_of_drop hdrop]
  exact rlCases_of_gt _ _ _ h

end

/-! ## The decoder's state -/

/-- The state of a decode that has read the packets `ps` from the state `s` on. -/
def unpacked (s : State) (ps : List RlPacket) : State :=
  { s with
    ip := s.ip + (ps.flatMap RlPacket.code).length
    out := s.out ++ ps.flatMap RlPacket.content }

theorem unpacked_nil (s : State) : unpacked s [] = s := by
  simp [unpacked]

theorem unpacked_cons (s : State) (p : RlPacket) (ps : List RlPacket) :
    unpacked s (p :: ps) = unpacked (unpacked s [p]) ps := by
  simp [unpacked, Nat.add_assoc]

theorem unpacked_out (s : State) (ps : List RlPacket) : (unpacked s ps).out = s.out ++ ps.flatMap RlPacket.content := rfl

theorem kept_unpacked (s : State) (ps : List RlPacket) : Kept s (unpacked s ps) :=
  ⟨rfl, rfl, rfl, rfl⟩

/-- Behind the packets the cursor stands at what follows them. -/
theorem drop_unpacked {s : State} {ps : List RlPacket} {tail : Bytes}
    (hdrop : s.input.drop s.ip = ps.flatMap RlPacket.code ++ tail) :
    (unpacked s ps).input.drop (unpacked s ps).ip = tail := by
  change s.input.drop (s.ip + (ps.flatMap RlPacket.code).length) = tail
  rw [← List.drop_drop, hdrop, List.drop_left]

/-! ## One round -/

section
variable {s : State} {tail : Bytes}

/-- A literal packet (46_runlength.md R227). -/
theorem rlNext_of_lit {l : Bytes} (hwf : (RlPacket.lit l).wf = true)
    (hdrop : s.input.drop s.ip = (RlPacket.lit l).code ++ tail) : rlNext s = .more (unpacked s [.lit l]) := by
  obtain ⟨hpos, hmax⟩ : 1 ≤ l.length ∧ l.length ≤ 128 := of_decide_eq_true hwf
  have hL : (BitVec.ofNat 8 (l.length - 1)).toNat = l.length - 1 := by
    rw [BitVec.toNat_ofNat]
    omega
  have hclass : BitVec.ofNat 8 (l.length - 1) < 128 := by
    rw [BitVec.lt_def, hL]
    exact show l.length - 1 < 128 by omega
  have hcount : ((BitVec.ofNat 8 (l.length - 1)).extractLsb' 0 7).toNat + 1 = l.length := by
    rw [lengthField_toNat, hL]
    omega
  have hbytes : s.input.drop (s.ip + 1) = l ++ tail := drop_succ_of_drop hdrop
  have hthere : s.ip + 1 + l.length ≤ s.input.length := by
    have hlen := congrArg List.length hbytes
    rw [List.length_drop, List.length_append] at hlen
    omega
  rw [rlNext_of_lt hdrop hclass, rlLit_of_le (by rw [hcount]; exact hthere), hcount]
  simp [unpacked, RlPacket.code, RlPacket.content, hbytes, Nat.add_assoc, Nat.add_comm 1]

/-- A repeat packet (46_runlength.md R229). -/
theorem rlNext_of_rep {n : Nat} {b : Byte} (hwf : (RlPacket.rep n b).wf = true)
    (hdrop : s.input.drop s.ip = (RlPacket.rep n b).code ++ tail) : rlNext s = .more (unpacked s [.rep n b]) := by
  obtain ⟨hmin, hmax⟩ : 2 ≤ n ∧ n ≤ 128 := of_decide_eq_true hwf
  have hL : (BitVec.ofNat 8 (257 - n)).toNat = 257 - n := by
    rw [BitVec.toNat_ofNat]
    omega
  have hclass : 128 < BitVec.ofNat 8 (257 - n) := by
    rw [BitVec.lt_def, hL]
    exact show 128 < 257 - n by omega
  have hcount : repCount ((BitVec.ofNat 8 (257 - n)).extractLsb' 0 7) = n := by
    rw [repCount_lengthField hclass, hL]
    omega
  have hbyte : s.input[s.ip + 1]? = some b := by
    rw [← List.head?_drop, drop_succ_of_drop hdrop]
    rfl
  rw [rlNext_of_gt hdrop hclass, rlRep_of_byte (lengthField_ne_zero hclass) hbyte, hcount]
  simp [unpacked, RlPacket.code, RlPacket.content, Nat.add_assoc]

/-- A well-formed packet is read, and its content emitted. -/
theorem rlNext_of_packet {p : RlPacket} (hwf : p.wf = true) (hdrop : s.input.drop s.ip = p.code ++ tail) :
    rlNext s = .more (unpacked s [p]) := by
  cases p with
  | lit l => exact rlNext_of_lit hwf hdrop
  | rep n b => exact rlNext_of_rep hwf hdrop

/-- The end-of-data byte stops the decode; the bytes behind it have no say (46_runlength.md R230, R231). -/
theorem rlNext_of_eod (hdrop : s.input.drop s.ip = 0x80 :: tail) : rlNext s = .stop { s with ip := s.ip + 1 } := by
  rw [rlNext, inByte_of_drop hdrop]
  rfl

end

/-- What is left of an input that is cut before a packet, or inside it (46_runlength.md R228). -/
def Cut (tail : Bytes) : Prop :=
  tail = [] ∨ (∃ (L : Byte) (l : Bytes), L < 128 ∧ l.length < L.toNat + 1 ∧ tail = L :: l) ∨
    ∃ L : Byte, 128 < L ∧ tail = [L]

/-- Each of the three cuts raises E_RL_TRUNCATED, and nothing is emitted. -/
theorem rlNext_of_cut {s : State} {tail : Bytes} (hcut : Cut tail) (hdrop : s.input.drop s.ip = tail) :
    ∃ ip, rlNext s = .raise .rlTruncated { s with ip := ip } := by
  rcases hcut with rfl | ⟨L, l, hclass, hshort, rfl⟩ | ⟨L, hclass, rfl⟩
  case inl =>
    refine ⟨s.ip, ?_⟩
    rw [rlNext, inByte_eq_none.2 (List.drop_eq_nil_iff.1 hdrop)]
  case inr.inl =>
    refine ⟨s.ip + 1, (rlNext_of_lt hdrop hclass).trans (rlLit_of_lt ?_)⟩
    have hL : L.toNat < 128 := BitVec.lt_def.1 hclass
    have hlen := congrArg List.length hdrop
    rw [List.length_drop, List.length_cons] at hlen
    change s.input.length < s.ip + 1 + ((L.extractLsb' 0 7).toNat + 1)
    rw [lengthField_toNat]
    omega
  case inr.inr =>
    exact ⟨s.ip + 1, (rlNext_of_gt hdrop hclass).trans
      (rlRep_of_le (lengthField_ne_zero hclass) (List.drop_eq_nil_iff.1 (drop_succ_of_drop hdrop)))⟩

/-! ## The whole input -/

/-- As many rounds as there are packets reach their end, unless the limit stops them on the way. -/
theorem loop_packets {ps : List RlPacket} {s : State} {tail : Bytes} {limit : Int} (n : Nat)
    (hwf : ∀ p ∈ ps, p.wf = true) (hdrop : s.input.drop s.ip = ps.flatMap RlPacket.code ++ tail) :
    loop limit rlNext Flow.more (ps.length + n) s = loop limit rlNext Flow.more n (unpacked s ps) ∨
      ∃ mid, mid <+: ps ∧ checkBufLen (unpacked s mid).out.length limit = false ∧
        loop limit rlNext Flow.more (ps.length + n) s = .stop (unpacked s mid) := by
  induction ps generalizing s with
  | nil => exact .inl (by rw [unpacked_nil, List.length_nil, Nat.zero_add])
  | cons p ps ih =>
    cases hlimit : checkBufLen s.out.length limit with
    | false => exact .inr ⟨[], List.nil_prefix, by rwa [unpacked_nil], by rw [unpacked_nil]; exact loop_full hlimit⟩
    | true =>
      obtain ⟨hp, hps⟩ := List.forall_mem_cons.1 hwf
      have hfirst : s.input.drop s.ip = p.code ++ (ps.flatMap RlPacket.code ++ tail) := by
        rw [hdrop, List.flatMap_cons, List.append_assoc]
      have hbehind : (unpacked s [p]).input.drop (unpacked s [p]).ip = ps.flatMap RlPacket.code ++ tail :=
        drop_unpacked (by simpa using hfirst)
      rw [List.length_cons, Nat.add_right_comm, loop_step hlimit (rlNext_of_packet hp hfirst), unpacked_cons s p ps]
      rcases ih hps hbehind with hall | ⟨mid, hmid, hfull, hstop⟩
      · exact .inl hall
      · exact .inr ⟨p :: mid, List.prefix_cons_inj p |>.2 hmid, by rwa [unpacked_cons], by rwa [unpacked_cons s p mid]⟩

/-- A packet has at least its length byte. -/
theorem length_le_code_length (ps : List RlPacket) : ps.length ≤ (ps.flatMap RlPacket.code).length := by
  induction ps with
  | nil => rfl
  | cons p ps ih =>
    have hp : 1 ≤ p.code.length := by cases p <;> exact Nat.le_add_left 1 _
    rw [List.length_cons, List.flatMap_cons, List.length_append]
    omega

section
variable {s : State} {ps : List RlPacket} {tail : Bytes} (hwf : ∀ p ∈ ps, p.wf = true)
  (hinput : s.input = ps.flatMap RlPacket.code ++ tail) (hip : s.ip = 0) (hout : s.out = [])
include hinput hip

theorem drop_of_input : s.input.drop s.ip = ps.flatMap RlPacket.code ++ tail := by
  rw [hip, List.drop_zero, hinput]

include hwf

/-- The decode ends as the round behind the packets does, or is stopped by the limit on the way. -/
theorem rlDecodeLazy_ends (limit : Int) {f : Flow} (hend : rlNext (unpacked s ps) = f) (hf : ∀ u, f ≠ .more u) :
    rlDecodeLazy limit s = f ∨
      ∃ mid, mid <+: ps ∧ checkBufLen (unpacked s mid).out.length limit = false ∧
        rlDecodeLazy limit s = .stop (unpacked s mid) := by
  have hlen : ps.length ≤ s.input.length := by
    rw [hinput, List.length_append]
    exact Nat.le_add_right_of_le (length_le_code_length ps)
  have hrounds : rlDecodeLazy limit s =
      loop limit rlNext Flow.more (ps.length + (s.input.length - ps.length + 1)) s := by
    rw [rlDecodeLazy, symbolLoop, ← Nat.add_assoc, Nat.add_sub_cancel' hlen]
  rw [hrounds]
  rcases loop_packets (limit := limit) (s.input.length - ps.length + 1) hwf (drop_of_input hinput hip)
    with hscan | hstopped
  · rw [hscan]
    cases hlimit : checkBufLen (unpacked s ps).out.length limit with
    | false => exact .inr ⟨ps, List.prefix_rfl, hlimit, loop_full hlimit⟩
    | true => exact .inl (loop_end hlimit hend hf)
  · exact .inr hstopped

/-- Without a limit it ends as that round does. -/
theorem rlDecode_ends {f : Flow} (hend : rlNext (unpacked s ps) = f) (hf : ∀ u, f ≠ .more u) : rlDecode s = f := by
  rcases rlDecodeLazy_ends hwf hinput hip (-1) hend hf with hends | ⟨mid, -, hlimit, -⟩
  · exact hends
  · simp [checkBufLen_neg] at hlimit

include hout

/-- With the end-of-data byte behind them the packets are decoded to their content, all or until the limit is reached. -/
theorem rlDecodeLazy_of_eod {junk : Bytes} (htail : tail = 0x80 :: junk) (limit : Int) :
    StopsWithin limit s (ps.flatMap RlPacket.content) (rlDecodeLazy limit s) := by
  have hbehind := drop_unpacked ((drop_of_input hinput hip).trans (congrArg (_ ++ ·) htail))
  have hcontent (mid : List RlPacket) : (unpacked s mid).out = mid.flatMap RlPacket.content := by
    rw [unpacked_out, hout, List.nil_append]
  rcases rlDecodeLazy_ends hwf hinput hip limit (rlNext_of_eod hbehind) (by simp) with hall | ⟨mid, hmid, hlimit, hstop⟩
  · exact ⟨_, hall, kept_unpacked s ps, (hcontent ps).symm ▸ List.prefix_rfl, .inl (hcontent ps)⟩
  · refine ⟨unpacked s mid, hstop, kept_unpacked s mid, ?_, .inr hlimit⟩
    obtain ⟨rest, rfl⟩ := hmid
    rw [hcontent, List.flatMap_append]
    exact List.prefix_append _ _

/-- A cut input raises E_RL_TRUNCATED behind the content of its packets. -/
theorem rlDecode_of_cut (hcut : Cut tail) :
    ∃ u, rlDecode s = .raise .rlTruncated u ∧ Kept s u ∧ u.out = ps.flatMap RlPacket.content := by
  obtain ⟨ip, hraise⟩ := rlNext_of_cut hcut (drop_unpacked (drop_of_input hinput hip))
  refine ⟨_, rlDecode_ends hwf hinput hip hraise (by simp), kept_unpacked s ps, ?_⟩
  change (unpacked s ps).out = _
  rw [unpacked_out, hout, List.nil_append]

end

/-- Settles O20: the packets are read (`loop_packets`), and the round behind them raises at each of the three cuts
(`rlNext_of_cut`). -/
theorem cutPacketsAreTruncated : Obligations.CutPacketsAreTruncated := by
  intro ps tail s hwf hs hcut
  obtain ⟨u, hraise, hkept, hcontent⟩ :=
    rlDecode_of_cut (s := startData (ps.flatMap RlPacket.code ++ tail) (some (-1)) s) hwf rfl rfl rfl hcut
  refine ⟨dataCommand_of_raise hs (by simp) hraise hkept, ?_⟩
  have hlazy : lazyOf .runLength (-1) (startData (ps.flatMap RlPacket.code ++ tail) (some (-1)) s) =
      .raise .rlTruncated u := hraise
  rw [traceOf, hlazy, Flow.trace, hcontent]

/-- Settles O21: the packets are read (`loop_packets`) and the end-of-data byte stops behind them, all or under the limit
(`rlDecodeLazy_of_eod`). -/
theorem runLengthDecodesPackets : Obligations.RunLengthDecodesPackets := by
  intro ps junk n s hwf hs hn
  have hstops (limit : Option Int) (bound : Int) :=
    rlDecodeLazy_of_eod (s := startData (ps.flatMap RlPacket.code ++ 0x80 :: junk) limit s) hwf rfl rfl rfl rfl bound
  constructor
  case left =>
    obtain ⟨u, hstop, hkept, hall⟩ := (hstops (some (-1)) (-1)).unlimited (by decide)
    rw [← hall]
    exact dataCommand_of_stop hs (by simp) hstop hkept
  case right =>
    obtain ⟨u, hstop, hkept, hopens, hlen⟩ :=
      boundedDecode_of_stopsWithin (k := .runLength) (hstops (some (n : Int))) (Int.natCast_nonneg n)
    obtain ⟨t, hexec, hok, hout, hrest⟩ := dataCommand_of_stop (limit := some (n : Int)) hs hn hstop hkept
    exact ⟨t, hexec, hok, hout ▸ hopens, hout ▸ hlen, hrest⟩

end Sys2Proof.Proofs.RunLengthDecode
end

section
/-! The bounded decode under `exact` (47_bounded_decode.md R241, R244). The codecs' rules never read MAXLEN: from two states
that differ in that register only they come to the same end (`EndsAlike`). This is shown symbol by symbol and once for the
loop (`BlindToMaxLen`), so DECODE and DECODELEN run alike and the limit only cuts what the run delivers. -/

namespace Sys2Proof.Proofs.ExactBoundedDecode

open Sys2Proof Sys2Proof.Machine Sys2Proof.Streams Sys2Proof.Proofs.Predictor
open Sys2Proof.Proofs.LzwExpansion Sys2Proof.Proofs.LzwDecode

/-! ## The stopping predicate -/

/-- Settles O49: a limit stops a decode exactly where it is not negative and OUT has reached it (`checkBufLen_eq_true`); the
source's examples are evaluated. -/
theorem stoppingPredicate : Obligations.StoppingPredicate := by
  refine ⟨?negative, ?below, ?reached, by decide, by decide, by decide, by decide, by decide⟩
  case negative => exact fun len maxLen hneg => checkBufLen_neg hneg
  case below => exact fun len maxLen _ hlt => checkBufLen_eq_true.2 (.inr hlt)
  case reached =>
    intro len maxLen hnonneg hle
    rw [← Bool.not_eq_true, checkBufLen_eq_true]
    omega

/-! ## Two runs that differ in MAXLEN -/

/-- A state with another MAXLEN. -/
def withMaxLen (m : Int) (s : State) : State :=
  { s with maxLen := m }

section
variable (m : Int) (s : State)

@[simp] theorem withMaxLen_cfg : (withMaxLen m s).cfg = s.cfg := rfl
@[simp] theorem withMaxLen_inst : (withMaxLen m s).inst = s.inst := rfl
@[simp] theorem withMaxLen_input : (withMaxLen m s).input = s.input := rfl
@[simp] theorem withMaxLen_ip : (withMaxLen m s).ip = s.ip := rfl
@[simp] theorem withMaxLen_work : (withMaxLen m s).work = s.work := rfl

end

theorem kept_refl (s : State) : Kept s s :=
  ⟨rfl, rfl, rfl, rfl⟩

/-- Two runs from `s`, the second with MAXLEN `m`, came to the same end, and the first left what codecs leave as it was. -/
inductive EndsAlike (m : Int) (s : State) : Flow → Flow → Prop where
  | more {u : State} : Kept s u → EndsAlike m s (.more u) (.more (withMaxLen m u))
  | stop {u : State} : Kept s u → EndsAlike m s (.stop u) (.stop (withMaxLen m u))
  | raise {u : State} (e : EngineError) : Kept s u → EndsAlike m s (.raise e u) (.raise e (withMaxLen m u))
  | refuse {u : State} (r : EngineRefusal) : Kept s u → EndsAlike m s (.refuse r u) (.refuse r (withMaxLen m u))
  | exceeds : EndsAlike m s .exceeds .exceeds
  | stuck : EndsAlike m s .stuck .stuck

/-- A run that begins behind `s` may be told from `s` on. -/
theorem EndsAlike.of_kept {m : Int} {s s' : State} {f g : Flow} (h : EndsAlike m s' f g) (hkept : Kept s s') :
    EndsAlike m s f g := by
  cases h with
  | more hu => exact .more (hkept.trans hu)
  | stop hu => exact .stop (hkept.trans hu)
  | raise e hu => exact .raise e (hkept.trans hu)
  | refuse r hu => exact .refuse r (hkept.trans hu)
  | exceeds => exact .exceeds
  | stuck => exact .stuck

/-- Two runs that take the same branch end alike when the branches do. A symbol's proof below has one `ite` for each branch of
its definition, in the order in which the definition tests them. -/
theorem EndsAlike.ite {m : Int} {s : State} {f g f' g' : Flow} {c : Prop} [Decidable c] (hthen : EndsAlike m s f g)
    (helse : EndsAlike m s f' g') : EndsAlike m s (if c then f else f') (if c then g else g') := by
  split
  · exact hthen
  · exact helse

/-- The rule does not read MAXLEN, and leaves what codecs leave as it was. -/
def BlindToMaxLen (body : State → Flow) : Prop :=
  ∀ (m : Int) (s : State), EndsAlike m s (body s) (body (withMaxLen m s))

theorem blind_stop : BlindToMaxLen Flow.stop :=
  fun _ s => .stop (kept_refl s)

theorem blind_more : BlindToMaxLen Flow.more :=
  fun _ s => .more (kept_refl s)

theorem blind_raise (e : EngineError) : BlindToMaxLen (Flow.raise e) :=
  fun _ s => .raise e (kept_refl s)

/-- The input byte that is read does not depend on MAXLEN. -/
theorem inByte_withMaxLen (s : State) :
    (inByte s = none ∧ ∀ m, inByte (withMaxLen m s) = none) ∨
      ∃ b s', inByte s = some (b, s') ∧ (∀ m, inByte (withMaxLen m s) = some (b, withMaxLen m s')) ∧ Kept s s' := by
  cases h : inByte s with
  | none => exact .inl ⟨rfl, fun m => inByte_eq_none.2 (show s.input.length ≤ s.ip from inByte_eq_none.1 h)⟩
  | some read =>
    obtain ⟨b, s'⟩ := read
    obtain ⟨hb, rfl⟩ := inByte_eq_some.1 h
    exact .inr ⟨b, _, rfl, fun m => inByte_eq_some.2 ⟨hb, rfl⟩, kept_refl s⟩

/-- The loop asks its own limit, not the register. -/
theorem blind_loop {limit : Int} {body atEnd : State → Flow} (hbody : BlindToMaxLen body) (hend : BlindToMaxLen atEnd)
    (n : Nat) : BlindToMaxLen (loop limit body atEnd n) := by
  induction n with
  | zero => exact fun m s => .ite (hend m s) (blind_stop m s)
  | succ n ih =>
    intro m s
    refine .ite ?_ (blind_stop m s)
    have hround := hbody m s
    generalize body s = f, body (withMaxLen m s) = g at hround
    cases hround with
    | more hu => exact (ih m _).of_kept hu
    | stop hu => exact .stop hu
    | raise e hu => exact .raise e hu
    | refuse r hu => exact .refuse r hu
    | exceeds => exact .exceeds
    | stuck => exact .stuck

theorem blind_symbolLoop {limit : Int} {body : State → Flow} (hbody : BlindToMaxLen body) :
    BlindToMaxLen (symbolLoop limit body) :=
  fun m s => blind_loop hbody blind_more _ m s

/-! ## ASCIIHex -/

theorem blind_hexDigit (ch : Byte) : BlindToMaxLen (hexDigit ch) := by
  intro m s
  simp only [hexDigit, withMaxLen_work]
  cases hexVal ch with
  | none => exact blind_raise _ m s
  | some v =>
    cases s.work.hi with
    | none => exact .more (kept_refl s)
    | some h => exact .more (kept_refl s)

theorem blind_hexEod : BlindToMaxLen hexEod := by
  intro m s
  simp only [hexEod, withMaxLen_work]
  cases s.work.hi with
  | none => exact blind_stop m s
  | some h => exact .stop (kept_refl s)

theorem blind_hexWs (ch : Byte) : BlindToMaxLen (hexWs ch) :=
  fun m s => .ite (blind_more m s) (blind_raise _ m s)

theorem blind_hexNext : BlindToMaxLen hexNext := by
  intro m s
  rcases inByte_withMaxLen s with ⟨hend, hend'⟩ | ⟨b, s', hread, hread', hkept⟩
  · simpa only [hexNext, hend, hend'] using blind_raise _ m s
  · simp only [hexNext, hread, hread']
    refine .of_kept ?_ hkept
    exact .ite (blind_hexEod m s') <| .ite (blind_hexWs b m s') <| .ite (blind_hexDigit b m s') (blind_raise _ m s')

/-! ## RunLength -/

theorem blind_rlLit (len : BitVec 7) : BlindToMaxLen (rlLit len) := by
  intro m s
  simp only [rlLit, withMaxLen_input, withMaxLen_ip]
  cases memRead s.input s.ip (len.toNat + 1) with
  | none => exact blind_raise _ m s
  | some lits => exact .more (kept_refl s)

theorem blind_rlRep (len : BitVec 7) : BlindToMaxLen (rlRep len) := by
  intro m s
  refine .ite (blind_raise _ m s) ?_
  rcases inByte_withMaxLen s with ⟨hend, hend'⟩ | ⟨b, s', hread, hread', hkept⟩
  · simpa only [hend, hend'] using blind_raise _ m s
  · simpa only [hread, hread'] using .more hkept

theorem blind_rlNext : BlindToMaxLen rlNext := by
  intro m s
  rcases inByte_withMaxLen s with ⟨hend, hend'⟩ | ⟨b, s', hread, hread', hkept⟩
  · simpa only [rlNext, hend, hend'] using blind_raise _ m s
  · simp only [rlNext, hread, hread']
    refine .of_kept ?_ hkept
    exact .ite (blind_stop m s') <| .ite (blind_rlLit _ m s') (blind_rlRep _ m s')

/-! ## ASCII85 -/

theorem blind_a85Digit (ch : Byte) : BlindToMaxLen (a85Digit ch) :=
  fun m s => .ite (blind_raise _ m s) <| .ite (.ite (blind_raise _ m s) (.more (kept_refl s))) (.more (kept_refl s))

theorem blind_a85Z : BlindToMaxLen a85Z :=
  fun m s => .ite (.more (kept_refl s)) (blind_raise _ m s)

theorem blind_a85Ws (ch : Byte) : BlindToMaxLen (a85Ws ch) :=
  fun m s => .ite (blind_more m s) (blind_raise _ m s)

theorem blind_a85Eod : BlindToMaxLen a85Eod :=
  fun m s => .ite (blind_stop m s) <| .ite (blind_raise _ m s) <| .ite (blind_raise _ m s) (.stop (kept_refl s))

theorem blind_a85Next : BlindToMaxLen a85Next := by
  intro m s
  refine .ite ((blind_a85Eod m { s with ip := s.ip + 2 }).of_kept (kept_refl s)) ?_
  rcases inByte_withMaxLen s with ⟨hend, hend'⟩ | ⟨b, s', hread, hread', hkept⟩
  · simpa only [hend, hend'] using blind_raise _ m s
  · simp only [hread, hread']
    refine .of_kept ?_ hkept
    exact .ite (blind_a85Ws b m s') <| .ite (blind_a85Z m s') <| .ite (blind_a85Digit b m s') (blind_raise _ m s')

theorem blind_a85DecodeLazy (limit : Int) : BlindToMaxLen (a85DecodeLazy limit) := by
  intro m s
  simp only [a85DecodeLazy, withMaxLen_input]
  cases findEod s.input with
  | none => exact blind_raise _ m s
  | some p =>
    have hloop := blind_symbolLoop (limit := limit) blind_a85Next
    exact (hloop m { s with work := { s.work with eodpos := p } }).of_kept (kept_refl s)

/-! ## Predictors -/

theorem blind_tiffHdiff : BlindToMaxLen tiffHdiff := by
  intro m s
  simp only [tiffHdiff, withMaxLen_work, withMaxLen_inst]
  cases memRead s.work.raw (s.work.rowIndex * rowBytes s.inst) (rowBytes s.inst) with
  | none => exact blind_raise _ m s
  | some raw => exact .more (kept_refl s)

theorem blind_pngRow (filter : Nat → Option Bytes → Bytes → Bytes) : BlindToMaxLen (pngRow filter) := by
  intro m s
  simp only [pngRow, withMaxLen_work, withMaxLen_inst]
  cases memRead s.work.raw (s.work.rowIndex * (1 + rowBytes s.inst) + 1) (rowBytes s.inst) with
  | none => exact blind_raise _ m s
  | some raw => exact .more (kept_refl s)

theorem blind_pngNext : BlindToMaxLen pngNext := by
  intro m s
  simp only [pngNext, withMaxLen_work, withMaxLen_inst]
  cases s.work.raw[s.work.rowIndex * (1 + rowBytes s.inst)]? with
  | none => exact blind_raise _ m s
  | some tag =>
    exact .ite (blind_pngRow noneRow m s) <| .ite (blind_pngRow subRow m s) <| .ite (blind_pngRow upRow m s) <|
      .ite (blind_pngRow avgRow m s) <| .ite (blind_pngRow paethRow m s) (blind_raise _ m s)

theorem blind_rowLoop (frame : Nat) (limit : Int) {body : State → Flow} (hbody : BlindToMaxLen body) :
    BlindToMaxLen (rowLoop frame limit body Flow.stop) :=
  fun m s => .ite ((blind_loop hbody blind_stop _ m (startRows s)).of_kept (kept_refl s)) .exceeds

theorem blind_tiffBuffer : BlindToMaxLen tiffBuffer :=
  fun m s => .ite (blind_rowLoop (tiffFrame s) (-1) blind_tiffHdiff m s) (blind_raise _ m s)

theorem blind_pngBuffer : BlindToMaxLen pngBuffer :=
  fun m s =>
    .ite ((blind_rowLoop (pngFrame s) (-1) blind_pngNext m (startChunks s)).of_kept (kept_refl s)) (blind_raise _ m s)

theorem blind_applyPredictor : BlindToMaxLen applyPredictor :=
  fun m s =>
    have hpng := blind_pngBuffer m s
    .ite (.stop (kept_refl s)) <| .ite (blind_tiffBuffer m s) <| .ite hpng <| .ite hpng <| .ite hpng <| .ite hpng <|
      .ite hpng <| .ite hpng (blind_raise _ m s)

/-! ## Flate -/

theorem blind_flateDecode : BlindToMaxLen flateDecode := by
  intro m s
  simp only [flateDecode, inflateThen, withMaxLen_cfg, withMaxLen_inst, withMaxLen_input]
  cases validateParms .flate s.inst with
  | some e => exact blind_raise e m s
  | none =>
    cases inflate s.cfg s.input with
    | none => exact blind_raise _ m s
    | some raw =>
      exact (blind_applyPredictor m { s with work := { s.work with raw := raw } }).of_kept (kept_refl s)

/-! ## LZW -/

theorem kept_lzwEmit (str : Bytes) (s : State) : Kept s (lzwEmit str s) :=
  ⟨lzwEmit_input str s, lzwEmit_inst str s, lzwEmit_cfg str s, lzwEmit_pending str s⟩

theorem lzwEmit_withMaxLen (str : Bytes) (m : Int) (s : State) :
    lzwEmit str (withMaxLen m s) = withMaxLen m (lzwEmit str s) := by
  by_cases hone : parm s.inst .predictor = 1
  · rw [lzwEmit_of_one hone, lzwEmit_of_one (s := withMaxLen m s) hone]
    rfl
  · rw [lzwEmit_of_ne_one hone, lzwEmit_of_ne_one (s := withMaxLen m s) hone]
    rfl

theorem blind_lzwData (str : Bytes) : BlindToMaxLen (lzwData str) := by
  intro m s
  refine .ite (blind_raise _ m s) ?_
  simp only [lzwEmit_withMaxLen]
  exact .more (kept_lzwEmit str s)

theorem blind_lzwRef (code : BitVec 12) : BlindToMaxLen (lzwRef code) := by
  intro m s
  simp only [lzwRef, withMaxLen_work]
  cases tableEntry s.work code.toNat with
  | none => exact blind_raise _ m s
  | some str => exact blind_lzwData str m s

theorem blind_lzwKwkwk (code : BitVec 12) : BlindToMaxLen (lzwKwkwk code) := by
  intro m s
  simp only [lzwKwkwk, withMaxLen_work]
  cases s.work.prev with
  | none => exact blind_raise _ m s
  | some p => exact .ite (blind_lzwData _ m s) (blind_raise _ m s)

theorem blind_lzwEod : BlindToMaxLen lzwEod :=
  fun m s => .ite (blind_stop m s) (blind_tiffBuffer m s)

theorem blind_lzwNext : BlindToMaxLen (lzwNext lzwEod) := by
  intro m s
  simp only [lzwNext, withMaxLen_input, withMaxLen_work]
  cases bitRead s.input s.work.bp s.work.width with
  | none => exact blind_raise _ m s
  | some c =>
    have hkept : Kept s { s with work := { s.work with bp := s.work.bp + s.work.width } } := kept_refl s
    refine .of_kept ?_ hkept
    exact .ite (.more (kept_refl _)) <| .ite (blind_lzwEod m _) <| .ite (blind_raise _ m _) <|
      .ite (blind_lzwData _ m _) <| .ite (blind_lzwRef _ m _) <| .ite (blind_lzwKwkwk _ m _) (blind_raise _ m _)

theorem blind_lzwDecode : BlindToMaxLen lzwDecode := by
  intro m s
  simp only [lzwDecode, withMaxLen_inst]
  cases validateParms .lzw s.inst with
  | some e => exact blind_raise e m s
  | none => exact blind_symbolLoop blind_lzwNext m s

/-! ## DECODE and DECODELEN of every kind -/

/-- The decode rule of a kind, which DECODE and DECODELEN share (40_registry_factory.md R104). -/
def decodeRule (k : Kind) : State → Flow :=
  match k with
  | .ascii85 => a85Decode
  | .asciiHex => hexDecode
  | .runLength => rlDecode
  | .lzw => lzwDecode
  | .flate => flateDecode

theorem exec_decodeDecode (k : Kind) (input : Bytes) (s : State) :
    exec (decodeDecode k input) s = dataCommand input (some (-1)) (decodeRule k) s := by
  cases k <;> rfl

theorem exec_decodeDecodelen (k : Kind) (n : Int) (input : Bytes) (s : State) :
    exec (decodeDecodelen k n input) s = dataCommand input (some n) (boundedDecode k (decodeRule k) (lazyOf k)) s := by
  cases k <;> rfl

/-- No kind's decode rule reads MAXLEN. -/
theorem blind_decodeRule (k : Kind) : BlindToMaxLen (decodeRule k) := by
  cases k with
  | ascii85 => exact blind_a85DecodeLazy (-1)
  | asciiHex => exact blind_symbolLoop (limit := -1) blind_hexNext
  | runLength => exact blind_symbolLoop (limit := -1) blind_rlNext
  | lzw => exact blind_lzwDecode
  | flate => exact blind_flateDecode

/-- Under `exact` a limit from 0 on cuts what the decode rule comes to (47_bounded_decode.md R244). -/
theorem boundedDecode_exact {k : Kind} {full : State → Flow} {lazy : Int → State → Flow} {s : State} {n : Nat}
    (hexact : s.cfg.boundedStop = .exact) (hn : s.maxLen = n) : boundedDecode k full lazy s = cutExact n (full s) := by
  rcases boundedDecode_nonneg (k := k) (full := full) (lazy := lazy) (s := s) (by omega) with
    ⟨-, h⟩ | ⟨hlazy, -⟩ | ⟨known, hchoose, -⟩
  · rw [h, hn, Int.toNat_natCast]
  · simp [hexact] at hlazy
  · simp [hexact] at hchoose

/-- Where the one run ends a command, cutting the other ends it with the same STATUS and the bytes cut. -/
theorem settleCommand_cutExact {m : Int} {n : Nat} {s t : State} {f g : Flow} (halike : EndsAlike m s f g)
    (hcap : Unbounded s.cfg) (hend : settleCommand f = .next t) :
    ∃ u, settleCommand (cutExact n g) = .next u ∧ u.status = t.status ∧ u.out = t.out.take n ∧ u.inst = s.inst := by
  cases halike with
  | more hkept => cases hend
  | @stop u hkept =>
    obtain ⟨-, hinst, hcfg, -⟩ := hkept
    rw [← hcfg] at hcap
    obtain rfl : endOk u = t := Host.Outcome.next.inj ((settleSymbol_stop hcap).symm.trans hend)
    exact ⟨_, settleSymbol_stop hcap, rfl, rfl, hinst⟩
  | @raise u e hkept =>
    obtain ⟨-, hinst, -, -⟩ := hkept
    obtain rfl : endError e u = t := Host.Outcome.next.inj hend
    exact ⟨_, rfl, rfl, List.take_nil.symm, hinst⟩
  | @refuse u r hkept =>
    obtain ⟨-, hinst, -, -⟩ := hkept
    obtain rfl : endRefusal r u = t := Host.Outcome.next.inj hend
    exact ⟨_, rfl, rfl, List.take_nil.symm, hinst⟩
  | exceeds => cases hend
  | stuck => cases hend

/-- Settles O53: the decode rule does not read MAXLEN (`blind_decodeRule`), so DECODELEN cuts the very run that DECODE
delivers, and fails where DECODE fails (`settleCommand_cutExact`). -/
theorem exactBoundedDecodeTruncates : Obligations.ExactBoundedDecodeTruncates := by
  intro k input n s t hs hexact hn hdecode
  rw [exec_decodeDecode, dataCommand_of_ready hs (by simp)] at hdecode
  rw [exec_decodeDecodelen, dataCommand_of_ready (limit := some (n : Int)) hs hn,
    boundedDecode_exact (s := startData input (some (n : Int)) s) hexact rfl]
  have halike := blind_decodeRule k n (startData input (some (-1)) s)
  exact settleCommand_cutExact (s := startData input (some (-1)) s) halike hs.2 hdecode

end Sys2Proof.Proofs.ExactBoundedDecode
end

section
/-! An ASCII85 input without the terminator (44_ascii85.md R192, 60_exceptions.md R258). The terminator is searched for before
the first symbol is read, so the error comes behind no bytes; it is one that is always reported, so no limit hides it. -/

namespace Sys2Proof.Proofs.Ascii85MissingEod

open Sys2Proof Sys2Proof.Machine Sys2Proof.Streams Sys2Proof.Proofs.Validation Sys2Proof.Proofs.Ascii85Decode

/-- The search finds nothing in an input without the byte pair (44_ascii85.md R192). -/
theorem findEod_eq_none {input : Bytes} (h : ¬ [0x7E, 0x3E] <:+: input) : findEod input = none := by
  induction input with
  | nil => rfl
  | cons a rest ih =>
    have hrest : ¬ [0x7E, 0x3E] <:+: rest := fun hin => h (hin.trans (List.infix_cons List.infix_rfl))
    have hopens : a = 0x7E → rest.head? ≠ some 0x3E := by
      rintro rfl hhead
      obtain ⟨more, rfl⟩ := List.head?_eq_some_iff.1 hhead
      exact h ⟨[], more, rfl⟩
    rw [findEod_cons hopens, ih hrest, Option.map_none]

section
variable {s : State} {input : Bytes} (hinput : ¬ [0x7E, 0x3E] <:+: input)
include hinput

/-- Under every limit the decode rule raises at once. -/
theorem a85DecodeLazy_of_missingEod (limit : Int) (maxLen : Option Int) :
    a85DecodeLazy limit (startData input maxLen s) = .raise .a85MissingEod (startData input maxLen s) := by
  rw [a85DecodeLazy, startData_input, findEod_eq_none hinput]

theorem decodeAscii85_of_missingEod (hs : Ready s) :
    ∃ t, exec (.decodeAscii85 input) s = .next t ∧ FailsAs (.error .a85MissingEod) { s with input := input } t :=
  dataCommand_raises_at_once hs (by simp) (a85DecodeLazy_of_missingEod hinput (-1) (some (-1)))

theorem decodelenAscii85_of_missingEod (hs : Ready s) {n : Int} (hn : fitsParamBits s.cfg.paramBits n = true) :
    ∃ t, exec (.decodelenAscii85 n input) s = .next t ∧ FailsAs (.error .a85MissingEod) { s with input := input } t :=
  dataCommand_raises_at_once hs hn
    (boundedDecode_of_alwaysReported .ascii85 rfl (a85DecodeLazy_of_missingEod hinput (-1) (some n))
      fun limit => a85DecodeLazy_of_missingEod hinput limit (some n))

theorem traceOf_ascii85_of_missingEod : traceOf .ascii85 input s = some ([], some .a85MissingEod) := by
  have hraise : lazyOf .ascii85 (-1) (startData input (some (-1)) s) =
      .raise .a85MissingEod (startData input (some (-1)) s) :=
    a85DecodeLazy_of_missingEod hinput (-1) (some (-1))
  rw [traceOf, hraise]
  rfl

end

/-- Settles O30: the search fails (`findEod_eq_none`), so DECODE, DECODELEN and the trace all raise before the first symbol,
and the error is always reported. -/
theorem ascii85MissingTerminator : Obligations.Ascii85MissingTerminator := by
  intro input n s hinput hs hn
  refine ⟨?commands, traceOf_ascii85_of_missingEod hinput⟩
  case commands =>
    rintro i (rfl | rfl)
    · exact decodeAscii85_of_missingEod hinput hs
    · exact decodelenAscii85_of_missingEod hinput hs hn

end Sys2Proof.Proofs.Ascii85MissingEod
end

section
/-! Reset of the host between commands (70_reset_and_hazards.md R280, R290): what is fetched, what the step leaves, and that
it is a state right after reset whatever the registers held before. -/

namespace Sys2Proof.Proofs.Reset

open Sys2Proof Sys2Proof.Machine

/-- The state after reset gives the five registers of R280 their values. -/
theorem resetState_reset : ResetState State.reset := by
  refine ⟨?valid, ?status, ?input, ?out, ?ip⟩
  case valid | status | input | out | ip => rfl

/-- What `applyReset` keeps of the old state (the configuration, the host's items, the free index) is none of the registers
of R280. -/
theorem resetState_applyReset (s : State) : ResetState (applyReset s) :=
  resetState_reset

section
variable {s : State} {rest : List HostEvent} (hpending : s.pending = .reset :: rest)
include hpending

theorem fetch_of_reset : fetch s = .reset (applyReset { s with pending := rest }) := by
  simp only [fetch, hpending]

theorem step_of_reset : step s = .next (applyReset { s with pending := rest }) := by
  simp only [step, fetch_of_reset hpending]

end

/-- Settles O54: a reset at the front of what the host has makes the step leave `applyReset` (`step_of_reset`), which gives the
five registers the values of the state after reset (`resetState_applyReset`). -/
theorem resetValues : Obligations.ResetValues := by
  refine ⟨resetState_reset, ?hostReset⟩
  case hostReset =>
    intro s rest hpending
    exact ⟨_, step_of_reset hpending, resetState_applyReset _⟩

end Sys2Proof.Proofs.Reset
end

section
/-! Encoding and decoding (30_encoding.md R71 to R85). A command byte is read by its two nibbles (`decodeCommand_op`); each
format has one lemma on the round trip and one on what its decoder can answer, and the obligations put them together by
context. -/

namespace Sys2Proof.Proofs.Encoding

open Sys2Proof Sys2Proof.Machine Sys2Proof.Streams

/-! ## The two nibbles of a command byte (30_encoding.md R71) -/

theorem op_append (op fid : BitVec 4) : (op ++ fid).extractLsb' 4 4 = op := by
  revert op fid; decide

theorem fid_append (op fid : BitVec 4) : (op ++ fid).extractLsb' 0 4 = fid := by
  revert op fid; decide

theorem op_toNat (b : Byte) : (b.extractLsb' 4 4).toNat = b.toNat / 16 := by
  have hlt := b.isLt
  rw [BitVec.extractLsb'_toNat, Nat.shiftRight_eq_div_pow]
  omega

theorem fid_toNat (b : Byte) : (b.extractLsb' 0 4).toNat = b.toNat % 16 :=
  BitVec.extractLsb'_toNat ..

/-- The class of an FID is one of the nine names or 15 (40_registry_factory.md R102). -/
theorem classify_cases (name : Bytes) : classify name < 9 ∨ classify name = 15 := by
  unfold classify
  split
  · exact .inl ‹_›
  · exact .inr rfl

/-- The FIDs of the nine names (30_encoding.md R72). -/
theorem classify_names :
    classify nameAscii85 = 0 ∧ classify nameAsciiHex = 1 ∧ classify nameRunLength = 2 ∧ classify nameLzw = 3 ∧
      classify nameFlate = 4 ∧ classify nameCcittFax = 5 ∧ classify nameJbig2 = 6 ∧ classify nameDct = 7 ∧
      classify nameJpx = 8 := by
  decide

/-- SUPPORTS never carries a reserved FID. -/
theorem isReservedFid_classify (name : Bytes) : isReservedFid (BitVec.ofNat 4 (classify name)) = false := by
  rcases classify_cases name with h | h
  · generalize classify name = k at h
    revert k
    decide
  · rw [h]
    decide

/-! ## The round trip -/

section
variable {k : Kind}

/-- With OP 1 to 4 a FID other than 0 is reserved (30_encoding.md R85). -/
theorem decode_reservedFidNonzero {op fid : BitVec 4} (h : (Instr.reservedFidNonzero op fid).wf = true) :
    decodeCommand k (namedCommand (op ++ fid) [] none) = .reservedFidNonzero op fid := by
  obtain ⟨hlow, hhigh, hfid⟩ := of_decide_eq_true h
  have hop : op = 1 ∨ op = 2 ∨ op = 3 ∨ op = 4 := by bv_omega
  simp only [decodeCommand, namedCommand, op_append, fid_append, if_neg hfid]
  rcases hop with rfl | rfl | rfl | rfl <;> rfl

/-- With OP 0 and 5 the FIDs 9 to 14 are reserved (30_encoding.md R85). -/
theorem decode_reservedFid9_14 {op fid : BitVec 4} (h : (Instr.reservedFid9_14 op fid).wf = true) :
    decodeCommand k (namedCommand (op ++ fid) [] none) = .reservedFid9_14 op fid := by
  obtain ⟨hop, hfid⟩ := of_decide_eq_true h
  have hreserved : isReservedFid fid = true := decide_eq_true hfid
  simp only [decodeCommand, namedCommand, op_append, fid_append, hreserved, if_true]
  rcases hop with rfl | rfl <;> rfl

/-- OP 6 and 7 are reserved with every FID (30_encoding.md R85). -/
theorem decode_reservedOp6_7 (op : BitVec 1) (fid : BitVec 4) :
    decodeCommand k (namedCommand (3#3 ++ op ++ fid) [] none) = .reservedOp6_7 op fid := by
  have hfields : ∀ (op : BitVec 1) (fid : BitVec 4), (3#3 ++ op ++ fid).extractLsb' 0 4 = fid ∧
      (3#3 ++ op ++ fid).extractLsb' 4 1 = op ∧
      (((3#3 ++ op ++ fid).extractLsb' 4 4).toNat = 6 ∨ ((3#3 ++ op ++ fid).extractLsb' 4 4).toNat = 7) := by
    decide
  obtain ⟨hfid, hop, h | h⟩ := hfields op fid <;> simp only [decodeCommand, namedCommand, h, hfid, hop]

/-- OP 8 to 15 are reserved with every FID (30_encoding.md R85). -/
theorem decode_reservedOp8_15 (op : BitVec 3) (fid : BitVec 4) :
    decodeCommand k (namedCommand (1#1 ++ op ++ fid) [] none) = .reservedOp8_15 op fid := by
  have hfields : ∀ (op : BitVec 3) (fid : BitVec 4), (1#1 ++ op ++ fid).extractLsb' 0 4 = fid ∧
      (1#1 ++ op ++ fid).extractLsb' 4 3 = op ∧ 8 ≤ ((1#1 ++ op ++ fid).extractLsb' 4 4).toNat := by
    decide
  obtain ⟨hfid, hop, h⟩ := hfields op fid
  simp only [decodeCommand, namedCommand, hfid, hop]
  split <;> first | omega | rfl

/-- SUPPORTS carries the class of its name as FID (40_registry_factory.md R101). -/
theorem decode_supports (name : Bytes) :
    decodeCommand k (namedCommand (5#4 ++ BitVec.ofNat 4 (classify name)) name none) = .supports name := by
  have hreserved : ¬ isReservedFid (BitVec.ofNat 4 (classify name)) = true := by simp [isReservedFid_classify]
  simp only [decodeCommand, namedCommand, op_append, fid_append]
  exact if_neg hreserved

theorem decode_newfilterUnknown {name : Bytes} {parms : Option ParmMap}
    (h : (Instr.newfilterUnknown name parms).wf = true) :
    decodeCommand k (namedCommand 0x0F name parms) = .newfilterUnknown name parms := by
  have hname : classify name = 15 := of_decide_eq_true (Bool.and_eq_true_iff.1 h).1
  simp [decodeCommand, namedCommand, isReservedFid, decodeNewfilter, hname]

end

/-- The commands of the host. -/
theorem decode_encode_command {i : Instr} {k : Kind} (hwf : i.wf = true) (hfits : i.fits (.command k) = true) :
    decode (.command k) (encode i) = .ok i := by
  cases i with
  | newfilterUnknown name parms => exact congrArg Except.ok (decode_newfilterUnknown hwf)
  | supports name => exact congrArg Except.ok (decode_supports name)
  | reservedOp6_7 op fid => exact congrArg Except.ok (decode_reservedOp6_7 op fid)
  | reservedOp8_15 op fid => exact congrArg Except.ok (decode_reservedOp8_15 op fid)
  | reservedFidNonzero op fid => exact congrArg Except.ok (decode_reservedFidNonzero hwf)
  | reservedFid9_14 op fid => exact congrArg Except.ok (decode_reservedFid9_14 hwf)
  | newfilterAscii85 | newfilterAsciihex | newfilterRunlength | newfilterLzw | newfilterFlate | newfilterCcittfax
  | newfilterJbig2 | newfilterDct | newfilterJpx =>
    simp [decode, encode, decodeCommand, namedCommand, isReservedFid, decodeNewfilter, classify_names]
  | list => simp [decode, encode, decodeCommand, namedCommand]
  | encodeAscii85 | encodeAsciihex | encodeRunlength | encodeLzw | encodeFlate | decodeAscii85 | decodeAsciihex
  | decodeRunlength | decodeLzw | decodeFlate | decodelenAscii85 | decodelenAsciihex | decodelenRunlength
  | decodelenLzw | decodelenFlate =>
    obtain rfl := of_decide_eq_true hfits
    simp [decode, encode, decodeCommand, dataCommandOf, decodeEncode, decodeDecode, decodeDecodelen]
  | _ => exact (Bool.false_ne_true hfits).elim

/-- The packets of RunLength (30_encoding.md R78). -/
theorem decode_encode_runLength {i : Instr} (hwf : i.wf = true) (hfits : i.fits .runLength = true) :
    decode .runLength (encode i) = .ok i := by
  cases i with
  | rlEod => rfl
  | rlLit len =>
    have hlit : ∀ len : BitVec 7, decodeRl (0#1 ++ len) = .rlLit len := by decide
    exact congrArg Except.ok (hlit len)
  | rlRep len =>
    have hrep : ∀ len : BitVec 7, len ≠ 0 → decodeRl (1#1 ++ len) = .rlRep len := by decide
    exact congrArg Except.ok (hrep len (of_decide_eq_true hwf))
  | _ => exact (Bool.false_ne_true hfits).elim

/-- The row tags of PNG (30_encoding.md R77). -/
theorem decode_encode_png {i : Instr} (hwf : i.wf = true) (hfits : i.fits .png = true) :
    decode .png (encode i) = .ok i := by
  cases i with
  | pngNone | pngSub | pngUp | pngAvg | pngPaeth => rfl
  | pngIllegal tag =>
    have hfive : 5 ≤ tag := of_decide_eq_true hwf
    have hillegal : ¬ tag ≤ 4 := by bv_omega
    exact congrArg Except.ok (Predictor.pngCases_of_illegalTag hillegal ..)
  | _ => exact (Bool.false_ne_true hfits).elim

/-- The Predictor values (30_encoding.md R75). -/
theorem decode_encode_predictor {i : Instr} (hwf : i.wf = true) (hfits : i.fits .predictor = true) :
    decode .predictor (encode i) = .ok i := by
  cases i with
  | predNone | predTiff | predPng10 | predPng11 | predPng12 | predPng13 | predPng14 | predPng15 => rfl
  | predUndefined v =>
    obtain ⟨hone, htwo, hpng⟩ : v ≠ 1 ∧ v ≠ 2 ∧ ¬ (10 ≤ v ∧ v ≤ 15) := of_decide_eq_true hwf
    have hundefined : decodePredictor v = .predUndefined v := by
      unfold decodePredictor predCases
      split_ifs <;> first | omega | rfl
    exact congrArg Except.ok hundefined
  | _ => exact (Bool.false_ne_true hfits).elim

/-- The LZW codes, by the decoder's `next` and previous string (30_encoding.md R82, 42_lzw.md R142). -/
theorem decode_encode_lzw {i : Instr} {next : Nat} {hasPrev : Bool} (hwf : i.wf = true)
    (hfits : i.fits (.lzw next hasPrev) = true) : decode (.lzw next hasPrev) (encode i) = .ok i := by
  cases i with
  | lzwClear | lzwEod => rfl
  | lzwLit code =>
    have hnext : next ≠ 4096 := of_decide_eq_true hfits
    have hlt := code.isLt
    simp [decode, encode, decodeLzw, lzwCases, hnext, hlt, hlt.ne, show code.toNat ≠ 257 by omega]
  | lzwRef code =>
    obtain ⟨hnext, hlt⟩ : next ≠ 4096 ∧ code.toNat < next := of_decide_eq_true hfits
    have hcode : 258 ≤ code.toNat := of_decide_eq_true hwf
    simp [decode, encode, decodeLzw, lzwCases, hnext, hlt, show code.toNat ≠ 256 by omega,
      show code.toNat ≠ 257 by omega, show ¬ code.toNat < 256 by omega]
  | lzwKwkwk code =>
    obtain ⟨hnext, heq, hprev⟩ : next ≠ 4096 ∧ code.toNat = next ∧ hasPrev = true := of_decide_eq_true hfits
    have hcode : 258 ≤ code.toNat := of_decide_eq_true hwf
    subst next
    simp [decode, encode, decodeLzw, lzwCases, hnext, hprev, show code.toNat ≠ 256 by omega,
      show code.toNat ≠ 257 by omega, show ¬ code.toNat < 256 by omega]
  | lzwIllegal code =>
    have hclass : next = 4096 ∨ (256 ≤ code.toNat ∧ next ≤ code.toNat ∧ ¬ (code.toNat = next ∧ hasPrev = true)) :=
      of_decide_eq_true hfits
    obtain ⟨h256, h257⟩ : code ≠ 256 ∧ code ≠ 257 := of_decide_eq_true hwf
    have h256' : code.toNat ≠ 256 := fun h => h256 (BitVec.eq_of_toNat_eq h)
    have h257' : code.toNat ≠ 257 := fun h => h257 (BitVec.eq_of_toNat_eq h)
    rcases hclass with hfull | ⟨hlit, href, hnew⟩
    · simp [decode, encode, decodeLzw, lzwCases, h256', h257', hfull]
    · simp [decode, encode, decodeLzw, lzwCases, h256', h257', hnew, Nat.not_lt.2 hlit, Nat.not_lt.2 href]
  | _ => exact (Bool.false_ne_true hfits).elim

theorem isA85Digit_notMem_ws {ch : Byte} (h : isA85Digit ch = true) : ch ∉ whiteSpace := by
  revert ch; decide

/-- The characters of ASCII85; an illegal `~` stands alone (30_encoding.md R79). -/
theorem decode_encode_ascii85 {i : Instr} (hwf : i.wf = true) (hfits : i.fits .ascii85 = true) :
    decode .ascii85 (encode i) = .ok i := by
  have hlone (ch : Byte) : decode .ascii85 (.bytes [ch]) = .ok (a85Cases ch .a85Digit .a85Z .a85Ws .a85Illegal) :=
    if_neg (by simp)
  cases i with
  | a85Z | a85Eod => rfl
  | a85Digit ch =>
    have hdigit : isA85Digit ch = true := hwf
    rw [encode, hlone, a85Cases, if_neg (isA85Digit_notMem_ws hdigit), if_neg (Ascii85Body.ne_z_of_digit hdigit),
      if_pos hdigit]
  | a85Ws ch =>
    have hws : ch ∈ whiteSpace := of_decide_eq_true hwf
    rw [encode, hlone, a85Cases, if_pos hws]
  | a85Illegal ch =>
    simp only [Instr.wf, Bool.and_eq_true, Bool.not_eq_true', decide_eq_true_eq] at hwf
    obtain ⟨⟨hws, hz⟩, hdigit⟩ := hwf
    rw [encode, hlone, a85Cases, if_neg hws, if_neg hz, if_neg (by simp [hdigit])]
  | _ => exact (Bool.false_ne_true hfits).elim

/-- The characters of ASCIIHex (30_encoding.md R81). -/
theorem decode_encode_asciiHex {i : Instr} (hwf : i.wf = true) (hfits : i.fits .asciiHex = true) :
    decode .asciiHex (encode i) = .ok i := by
  have hbyte (ch : Byte) : decode .asciiHex (.bytes [ch]) = .ok (hexCases ch .hexDigit .hexEod .hexWs .hexIllegal) := rfl
  cases i with
  | hexEod => rfl
  | hexDigit ch =>
    have hdigit : (hexVal ch).isSome = true := hwf
    obtain ⟨v, hv⟩ := Option.isSome_iff_exists.1 hdigit
    have hws : ch ∉ whiteSpace := fun h => by simp [AsciiHexDecode.hexVal_of_ws ch h] at hv
    rw [encode, hbyte, hexCases, if_neg (AsciiHexDecode.ne_eod_of_digit hv), if_neg hws, if_pos hdigit]
  | hexWs ch =>
    have hws : ch ∈ whiteSpace := of_decide_eq_true hwf
    rw [encode, hbyte, hexCases, if_neg (AsciiHexDecode.ne_eod_of_ws hws), if_pos hws]
  | hexIllegal ch =>
    simp only [Instr.wf, Bool.and_eq_true, decide_eq_true_eq, Option.isNone_iff_eq_none] at hwf
    obtain ⟨⟨heod, hws⟩, hval⟩ := hwf
    rw [encode, hbyte, hexCases, if_neg heod, if_neg hws, if_neg (by simp [hval])]
  | _ => exact (Bool.false_ne_true hfits).elim

/-- Settles O1: each context reads its own format (`decode_encode_command` and its companions). -/
theorem decodeInvertsEncode : Obligations.DecodeInvertsEncode := by
  intro i ctx hwf hfits
  cases ctx with
  | command k => exact decode_encode_command hwf hfits
  | runLength => exact decode_encode_runLength hwf hfits
  | png => exact decode_encode_png hwf hfits
  | predictor => exact decode_encode_predictor hwf hfits
  | tiffRow =>
    cases i with
    | tiffHdiff => rfl
    | _ => exact (Bool.false_ne_true hfits).elim
  | lzw next hasPrev => exact decode_encode_lzw hwf hfits
  | ascii85 => exact decode_encode_ascii85 hwf hfits
  | asciiHex => exact decode_encode_asciiHex hwf hfits

end Sys2Proof.Proofs.Encoding
end

section
/-! What the decoder can answer (30_encoding.md R72 to R85): an instruction its context reads, reserved exactly for the
reserved bytes, and by the tables of the text formats for every character. -/

namespace Sys2Proof.Proofs.Decoding

open Sys2Proof Sys2Proof.Machine Sys2Proof.Streams Sys2Proof.Proofs.Encoding

/-! ## Commands -/

section
variable {k : Kind} {name : Bytes} {parms : Option ParmMap}

/-- NEWFILTER is read under every kind, and keeps the map it came with. -/
theorem decodeNewfilter_fits (hparms : parmsWf parms = true) :
    (decodeNewfilter name parms).fits (.command k) = true ∧ (decodeNewfilter name parms).wf = true := by
  rcases classify_cases name with hname | hname
  · unfold decodeNewfilter
    generalize classify name = fid at hname
    interval_cases fid <;> exact ⟨rfl, hparms⟩
  · have hunknown : decodeNewfilter name parms = .newfilterUnknown name parms := by simp [decodeNewfilter, hname]
    rw [hunknown]
    exact ⟨rfl, by simp [Instr.wf, hname, hparms]⟩

theorem isReserved_decodeNewfilter : isReserved (decodeNewfilter name parms) = false := by
  unfold decodeNewfilter
  split <;> rfl

end

/-- A data command is read under its own kind. -/
theorem decodeData_fits (k : Kind) (n : Int) (input : Bytes) :
    ((decodeEncode k input).fits (.command k) = true ∧ (decodeEncode k input).wf = true) ∧
      ((decodeDecode k input).fits (.command k) = true ∧ (decodeDecode k input).wf = true) ∧
        (decodeDecodelen k n input).fits (.command k) = true ∧ (decodeDecodelen k n input).wf = true := by
  cases k <;> exact ⟨⟨rfl, rfl⟩, ⟨rfl, rfl⟩, rfl, rfl⟩

theorem isReserved_decodeData (k : Kind) (n : Int) (input : Bytes) :
    isReserved (decodeEncode k input) = false ∧ isReserved (decodeDecode k input) = false ∧
      isReserved (decodeDecodelen k n input) = false := by
  cases k <;> exact ⟨rfl, rfl, rfl⟩

/-- By OP and FID a command decodes to a reserved row of its own class, or to what its operands say. -/
theorem decodeCommand_fits (k : Kind) (c : Command) (hparms : parmsWf c.parms = true) :
    (decodeCommand k c).fits (.command k) = true ∧ (decodeCommand k c).wf = true := by
  obtain ⟨hencode, hdecode, hdecodelen⟩ := decodeData_fits k c.maxLen c.input
  have hnonzero (op fid : BitVec 4) (hop : 1 ≤ op.toNat ∧ op.toNat ≤ 4) (hfid : fid ≠ 0) :
      (Instr.reservedFidNonzero op fid).wf = true := decide_eq_true ⟨by bv_omega, by bv_omega, hfid⟩
  have hnine (op fid : BitVec 4) (hop : op.toNat = 0 ∨ op.toNat = 5) (hfid : isReservedFid fid = true) :
      (Instr.reservedFid9_14 op fid).wf = true :=
    decide_eq_true ⟨hop.imp BitVec.eq_of_toNat_eq BitVec.eq_of_toNat_eq, of_decide_eq_true hfid⟩
  simp only [decodeCommand]
  split
  case h_1 hop =>
    split
    · exact ⟨rfl, hnine _ _ (.inl hop) ‹_›⟩
    · exact decodeNewfilter_fits hparms
  case h_2 hop =>
    split
    · exact hencode
    · exact ⟨rfl, hnonzero _ _ (by omega) ‹_›⟩
  case h_3 hop =>
    split
    · exact hdecode
    · exact ⟨rfl, hnonzero _ _ (by omega) ‹_›⟩
  case h_4 hop =>
    split
    · exact hdecodelen
    · exact ⟨rfl, hnonzero _ _ (by omega) ‹_›⟩
  case h_5 hop =>
    split
    · exact ⟨rfl, rfl⟩
    · exact ⟨rfl, hnonzero _ _ (by omega) ‹_›⟩
  case h_6 hop =>
    split
    · exact ⟨rfl, hnine _ _ (.inr hop) ‹_›⟩
    · exact ⟨rfl, rfl⟩
  case h_7 | h_8 | h_9 => exact ⟨rfl, rfl⟩

/-! ## Symbols -/

theorem decodeRl_fits : ∀ b : Byte, (decodeRl b).fits .runLength = true ∧ (decodeRl b).wf = true := by decide

theorem decodePng_fits (tag : Byte) : (decodePng tag).fits .png = true ∧ (decodePng tag).wf = true := by
  by_cases hlegal : tag ≤ 4
  · revert hlegal
    revert tag
    decide
  · rw [decodePng, Predictor.pngCases_of_illegalTag hlegal]
    exact ⟨rfl, decide_eq_true (by bv_omega)⟩

theorem decodePredictor_fits (v : Int) :
    (decodePredictor v).fits .predictor = true ∧ (decodePredictor v).wf = true := by
  unfold decodePredictor predCases
  split_ifs
  case neg => exact ⟨rfl, decide_eq_true (by omega)⟩
  all_goals exact ⟨rfl, rfl⟩

/-- A code value of at most 12 bits keeps its number in the operand; the classes are those of 42_lzw.md R142. -/
theorem decodeLzw_fits (next : Nat) (hasPrev : Bool) {c : Nat} (hc : c < 4096) :
    (decodeLzw next hasPrev c).fits (.lzw next hasPrev) = true ∧ (decodeLzw next hasPrev c).wf = true := by
  have hcode : (BitVec.ofNat 12 c).toNat = c := Nat.mod_eq_of_lt hc
  have hwf (h256 : c ≠ 256) (h257 : c ≠ 257) : (Instr.lzwIllegal (BitVec.ofNat 12 c)).wf = true := by
    refine decide_eq_true ⟨fun h => h256 ?_, fun h => h257 ?_⟩ <;> rw [← hcode, h] <;> rfl
  unfold decodeLzw lzwCases
  split_ifs with h256 h257 hfull hlit href hnew
  · exact ⟨rfl, rfl⟩
  · exact ⟨rfl, rfl⟩
  · exact ⟨decide_eq_true (.inl hfull), hwf h256 h257⟩
  · exact ⟨decide_eq_true hfull, rfl⟩
  · exact ⟨decide_eq_true ⟨hfull, hcode.symm ▸ href⟩, decide_eq_true (by omega)⟩
  · exact ⟨decide_eq_true ⟨hfull, hcode.symm ▸ hnew⟩, decide_eq_true (by omega)⟩
  · exact ⟨decide_eq_true (.inr (by rw [hcode]; exact ⟨by omega, by omega, hnew⟩)), hwf h256 h257⟩

theorem decodeHex_fits (ch : Byte) : (decodeHex ch).fits .asciiHex = true ∧ (decodeHex ch).wf = true := by
  unfold decodeHex hexCases
  split_ifs with heod hws hdigit
  · exact ⟨rfl, rfl⟩
  · exact ⟨rfl, decide_eq_true hws⟩
  · exact ⟨rfl, hdigit⟩
  · exact ⟨rfl, by simp_all [Instr.wf]⟩

theorem decodeA85_fits {l : Bytes} {i : Instr} (h : decodeA85 l = .ok i) : i.fits .ascii85 = true ∧ i.wf = true := by
  cases l with
  | nil => simp [decodeA85] at h
  | cons ch rest =>
    simp only [decodeA85, a85Cases] at h
    split_ifs at h with heod hws hz hdigit <;> obtain rfl := Except.ok.inj h
    · exact ⟨rfl, rfl⟩
    · exact ⟨rfl, decide_eq_true hws⟩
    · exact ⟨rfl, rfl⟩
    · exact ⟨rfl, hdigit⟩
    · exact ⟨rfl, by simp_all [Instr.wf]⟩

/-- Settles O2: in each context the decoder's classes are those of the tables (`decodeCommand_fits` and its companions). -/
theorem decodedInstructionsFit : Obligations.DecodedInstructionsFit := by
  intro ctx e i h hparms hcode
  cases e with
  | command c =>
    cases ctx with
    | command k =>
      obtain rfl := Except.ok.inj h
      exact decodeCommand_fits k c (hparms c rfl)
    | _ => cases h
  | code c =>
    cases ctx with
    | lzw next hasPrev =>
      obtain rfl := Except.ok.inj h
      exact decodeLzw_fits next hasPrev (hcode c rfl)
    | _ => cases h
  | value v =>
    cases ctx with
    | predictor =>
      obtain rfl := Except.ok.inj h
      exact decodePredictor_fits v
    | _ => cases h
  | untagged =>
    cases ctx with
    | tiffRow =>
      obtain rfl := Except.ok.inj h
      exact ⟨rfl, rfl⟩
    | _ => cases h
  | bytes l =>
    cases ctx with
    | ascii85 => exact decodeA85_fits h
    | runLength =>
      cases l with
      | nil => cases h
      | cons b rest =>
        obtain rfl := Except.ok.inj h
        exact decodeRl_fits b
    | png =>
      cases l with
      | nil => cases h
      | cons tag rest =>
        obtain rfl := Except.ok.inj h
        exact decodePng_fits tag
    | asciiHex =>
      cases l with
      | nil => cases h
      | cons ch rest =>
        obtain rfl := Except.ok.inj h
        exact decodeHex_fits ch
    | _ => cases l <;> cases h

/-! ## Reserved bytes (30_encoding.md R85) -/

/-- A command byte decodes to a reserved row by its OP and FID alone. -/
theorem isReserved_decodeCommand (k : Kind) (c : Command) :
    isReserved (decodeCommand k c) = true ↔
      6 ≤ (c.cmd.extractLsb' 4 4).toNat ∨
        (1 ≤ (c.cmd.extractLsb' 4 4).toNat ∧ (c.cmd.extractLsb' 4 4).toNat ≤ 4 ∧ c.cmd.extractLsb' 0 4 ≠ 0) ∨
        (((c.cmd.extractLsb' 4 4).toNat = 0 ∨ (c.cmd.extractLsb' 4 4).toNat = 5) ∧
          isReservedFid (c.cmd.extractLsb' 0 4) = true) := by
  obtain ⟨hencode, hdecode, hdecodelen⟩ := isReserved_decodeData k c.maxLen c.input
  have hnewfilter := isReserved_decodeNewfilter (name := c.name) (parms := c.parms)
  simp only [decodeCommand]
  split
  case h_1 hop | h_2 hop | h_3 hop | h_4 hop | h_5 hop | h_6 hop => split <;> simp_all [isReserved]
  case h_7 hop | h_8 hop => simp [isReserved, hop]
  case h_9 h0 h1 h2 h3 h4 h5 h6 h7 =>
    simp only [imp_false] at h0 h1 h2 h3 h4 h5
    simp only [isReserved, true_iff]
    omega

/-- Settles O7: `isReserved_decodeCommand` with OP and FID as the two halves of the byte; each reserved row is `badCommand`. -/
theorem reservedBytesAreRefused : Obligations.ReservedBytesAreRefused := by
  refine ⟨fun k c => ?bytes, ?op6_7, ?op8_15, ?fidNonzero, ?fid9_14⟩
  case bytes =>
    have hzero : c.cmd.extractLsb' 0 4 ≠ 0 ↔ c.cmd.toNat % 16 ≠ 0 := by
      rw [← fid_toNat]
      exact not_congr ⟨fun h => by rw [h]; rfl, fun h => BitVec.eq_of_toNat_eq h⟩
    have hnine : isReservedFid (c.cmd.extractLsb' 0 4) = true ↔ 9 ≤ c.cmd.toNat % 16 ∧ c.cmd.toNat % 16 ≤ 14 := by
      rw [← fid_toNat]
      exact decide_eq_true_iff
    rw [isReserved_decodeCommand, op_toNat, hzero, hnine]
  case op6_7 => exact fun op fid s => ⟨_, rfl, rfl⟩
  case op8_15 => exact fun op fid s => ⟨_, rfl, rfl⟩
  case fidNonzero => exact fun op fid s => ⟨_, rfl, rfl⟩
  case fid9_14 => exact fun op fid s => ⟨_, rfl, rfl⟩

/-! ## Sample words and character classes -/

/-- Settles O3: each word is evaluated. -/
theorem sampleWordsDecode : Obligations.SampleWordsDecode := by
  refine ⟨?newfilter, ?decode, ?list, ?reserved, ?rest⟩
  case newfilter =>
    simp [Sys2Proof.decode, decodeCommand, isReservedFid, decodeNewfilter, classify_names]
  case decode => simp [Sys2Proof.decode, decodeCommand, decodeDecode]
  case list => simp [Sys2Proof.decode, decodeCommand]
  case reserved => simp [Sys2Proof.decode, decodeCommand]
  case rest => decide

section
variable {ch : Byte} {rest : Bytes}

/-- An ASCII85 character that does not open the terminator is of the class of its table (30_encoding.md R79). -/
theorem decode_ascii85_char (heod : ¬ (ch = 0x7E ∧ rest.head? = some 0x3E)) :
    decode .ascii85 (.bytes (ch :: rest)) = .ok (a85Cases ch .a85Digit .a85Z .a85Ws .a85Illegal) :=
  if_neg heod

/-- An ASCIIHex character is of the class of its table (30_encoding.md R81). -/
theorem decode_asciiHex_char :
    decode .asciiHex (.bytes (ch :: rest)) = .ok (hexCases ch .hexDigit .hexEod .hexWs .hexIllegal) := rfl

theorem ne_tilde_of_ws (h : ch ∈ whiteSpace) : ch ≠ 0x7E := by
  rintro rfl
  exact absurd h (by decide)

theorem ne_tilde_of_digit (h : isA85Digit ch = true) : ch ≠ 0x7E := by
  rintro rfl
  exact absurd h (by decide)

end

/-- A digit's value is its distance from the first of its row, added to that one's value (30_encoding.md R81). -/
theorem hexVal_of_digit : ∀ ch : Byte,
    (0x30 ≤ ch ∧ ch ≤ 0x39 → hexVal ch = some (BitVec.ofNat 4 (ch.toNat - 0x30))) ∧
    (0x41 ≤ ch ∧ ch ≤ 0x46 → hexVal ch = some (BitVec.ofNat 4 (ch.toNat - 0x41 + 10))) ∧
    (0x61 ≤ ch ∧ ch ≤ 0x66 → hexVal ch = some (BitVec.ofNat 4 (ch.toNat - 0x61 + 10))) := by
  decide

theorem decode_hexDigit {ch : Byte} {v : BitVec 4} (h : hexVal ch = some v) (rest : Bytes) :
    decode .asciiHex (.bytes (ch :: rest)) = .ok (.hexDigit ch) := by
  have hws : ch ∉ whiteSpace := fun hws => by simp [AsciiHexDecode.hexVal_of_ws ch hws] at h
  rw [decode_asciiHex_char, hexCases, if_neg (AsciiHexDecode.ne_eod_of_digit h), if_neg hws, if_pos (by simp [h])]

/-- Settles O4: the two classification functions test the classes of the tables, which exclude each other. -/
theorem textCharacterClasses : Obligations.TextCharacterClasses := by
  intro ch rest
  obtain ⟨hnumeral, hupper, hlower⟩ := hexVal_of_digit ch
  refine ⟨fun heod => if_pos heod, ?a85Ws, ?a85Z, ?a85Digit, ?a85Illegal, ?hexWs, ?hexEod, fun h => ?numeral, fun h => ?upper,
    fun h => ?lower, ?hexIllegal⟩
  case a85Ws =>
    intro (hws : ch ∈ whiteSpace)
    rw [decode_ascii85_char fun h => ne_tilde_of_ws hws h.1, a85Cases, if_pos hws]
  case a85Z =>
    rintro rfl
    rfl
  case a85Digit =>
    intro hrange
    have hdigit : isA85Digit ch = true := decide_eq_true hrange
    rw [decode_ascii85_char fun h => ne_tilde_of_digit hdigit h.1, a85Cases, if_neg (isA85Digit_notMem_ws hdigit),
      if_neg (Ascii85Body.ne_z_of_digit hdigit), if_pos hdigit]
  case a85Illegal =>
    rintro ⟨hclass, hrange, heod⟩
    have hws : ch ∉ whiteSpace := fun h => hclass (by simp_all [whiteSpace])
    have hz : ch ≠ 0x7A := fun h => hclass (by simp_all)
    rw [decode_ascii85_char heod, a85Cases, if_neg hws, if_neg hz, if_neg (by simpa [isA85Digit] using hrange)]
  case hexWs =>
    intro (hws : ch ∈ whiteSpace)
    rw [decode_asciiHex_char, hexCases, if_neg (AsciiHexDecode.ne_eod_of_ws hws), if_pos hws]
  case hexEod =>
    rintro rfl
    rfl
  case numeral => exact ⟨decode_hexDigit (hnumeral h) rest, hnumeral h⟩
  case upper => exact ⟨decode_hexDigit (hupper h) rest, hupper h⟩
  case lower => exact ⟨decode_hexDigit (hlower h) rest, hlower h⟩
  case hexIllegal =>
    rintro ⟨hclass, hnumeral, hupper, hlower⟩
    have hws : ch ∉ whiteSpace := fun h => hclass (by simp_all [whiteSpace])
    have heod : ch ≠ 0x3E := fun h => hclass (by simp_all)
    have hval : hexVal ch = none := by rw [hexVal, if_neg hnumeral, if_neg hupper, if_neg hlower]
    refine ⟨?_, hval⟩
    rw [decode_asciiHex_char, hexCases, if_neg heod, if_neg hws, if_neg (by simp [hval])]

end Sys2Proof.Proofs.Decoding
end

section
/-! Dispatch (00_scope.md R6, 40_registry_factory.md R104, R112): a step runs the command it fetches, and one round of a codec's
loop runs the symbol its bytes decode to. Each format's decoder and loop share one classification function, and a
classification commutes with whatever is done to its answer. -/

namespace Sys2Proof.Proofs.Dispatch

open Sys2Proof Sys2Proof.Machine Sys2Proof.Streams Sys2Proof.Proofs.Reset

/-- Settles O5: `fetch` decodes under the kind of the instance, resets (`step_of_reset`) or stays idle. -/
theorem stepRunsTheDecodedCommand : Obligations.StepRunsTheDecodedCommand := by
  refine ⟨?command, ?reset, ?idle⟩
  case command =>
    intro s c rest i hpending hdecode
    obtain rfl := Except.ok.inj hdecode
    simp only [step, fetch, hpending]
  case reset =>
    intro s rest hpending
    exact step_of_reset hpending
  case idle =>
    intro s hpending
    simp only [step, fetch, hpending]

/-! ## The classification functions -/

section
variable {α β : Type} (g : α → β)

theorem rlCases_map (b : Byte) (lit : BitVec 7 → α) (eod : α) (rep : BitVec 7 → α) :
    g (rlCases b lit eod rep) = rlCases b (fun l => g (lit l)) (g eod) fun l => g (rep l) := by
  simp only [rlCases, apply_ite g]

theorem hexCases_map (ch : Byte) (digit : Byte → α) (eod : α) (ws illegal : Byte → α) :
    g (hexCases ch digit eod ws illegal) =
      hexCases ch (fun c => g (digit c)) (g eod) (fun c => g (ws c)) fun c => g (illegal c) := by
  simp only [hexCases, apply_ite g]

theorem a85Cases_map (ch : Byte) (digit : Byte → α) (z : α) (ws illegal : Byte → α) :
    g (a85Cases ch digit z ws illegal) =
      a85Cases ch (fun c => g (digit c)) (g z) (fun c => g (ws c)) fun c => g (illegal c) := by
  simp only [a85Cases, apply_ite g]

theorem lzwCases_map (next : Nat) (hasPrev : Bool) (c : Nat) (lit : Byte → α) (clear eod : α)
    (ref kwkwk illegal : BitVec 12 → α) :
    g (lzwCases next hasPrev c lit clear eod ref kwkwk illegal) =
      lzwCases next hasPrev c (fun b => g (lit b)) (g clear) (g eod) (fun d => g (ref d)) (fun d => g (kwkwk d))
        fun d => g (illegal d) := by
  simp only [lzwCases, apply_ite g]

theorem pngCases_map (tag : Byte) (none sub up avg paeth : α) (illegal : Byte → α) :
    g (pngCases tag none sub up avg paeth illegal) =
      pngCases tag (g none) (g sub) (g up) (g avg) (g paeth) fun t => g (illegal t) := by
  simp only [pngCases, apply_ite g]

theorem predCases_map (v : Int) (none tiff p10 p11 p12 p13 p14 p15 : α) (undefined : Int → α) :
    g (predCases v none tiff p10 p11 p12 p13 p14 p15 undefined) =
      predCases v (g none) (g tiff) (g p10) (g p11) (g p12) (g p13) (g p14) (g p15) fun w => g (undefined w) := by
  simp only [predCases, apply_ite g]

end

/-! ## One round of each loop -/

theorem inByte_of_getElem? {s : State} {b : Byte} (h : s.input[s.ip]? = some b) :
    inByte s = some (b, { s with ip := s.ip + 1 }) :=
  inByte_eq_some.2 ⟨h, rfl⟩

/-- Settles O6: the loop's classification of the symbol, settled, is the decoder's classification, executed. -/
theorem codecRoundsRunTheDecodedSymbol : Obligations.CodecRoundsRunTheDecodedSymbol := by
  refine ⟨?runLength, ?asciiHex, ?ascii85, ?ascii85Eod, ?lzw, ?png, ?predictor⟩
  case runLength =>
    intro s b hb
    rw [rlNext, inByte_of_getElem? hb, decodeRl, rlCases_map (exec · _)]
    exact rlCases_map settleSymbol ..
  case asciiHex =>
    intro s b hb
    rw [hexNext, inByte_of_getElem? hb, decodeHex, hexCases_map (exec · _)]
    exact hexCases_map settleSymbol ..
  case ascii85 =>
    intro s b i hip hb hdecode
    obtain rfl : a85Cases b .a85Digit .a85Z .a85Ws .a85Illegal = i :=
      Except.ok.inj ((Decoding.decode_ascii85_char (by simp)).symm.trans hdecode)
    rw [a85Next, if_neg hip, inByte_of_getElem? hb, a85Cases_map (exec · _)]
    exact a85Cases_map settleSymbol ..
  case ascii85Eod =>
    intro s hip
    exact congrArg settleSymbol (if_pos hip)
  case lzw =>
    intro s c hread
    rw [lzwNext, hread, decodeLzw, lzwCases_map (exec · _)]
    exact lzwCases_map settleSymbol ..
  case png =>
    intro s tag htag
    rw [pngNext, htag, decodePng, pngCases_map (exec · _)]
    exact pngCases_map settleSymbol ..
  case predictor =>
    intro s
    rw [decodePredictor, predCases_map (exec · _)]
    exact predCases_map settleSymbol ..

end Sys2Proof.Proofs.Dispatch
end

section
/-! The registry, the factory and the refusals (40_registry_factory.md R100 to R110): what each command of this part comes to
on an engine without finite capacities. -/

namespace Sys2Proof.Proofs.Registry

open Sys2Proof Sys2Proof.Machine Sys2Proof.Streams Sys2Proof.Proofs.Parameters Sys2Proof.Proofs.Names
open Sys2Proof.Proofs.ExactBoundedDecode Sys2Proof.Proofs.Encoding

/-! ## Queries -/

/-- Settles O8: LIST writes LIST_ORDER to RESULT on the started state, whose registers are those of `startCommand`. -/
theorem listDeliversTheNativeNames : Obligations.ListDeliversTheNativeNames := by
  intro s
  refine ⟨_, rfl, rfl, rfl, ?order, rfl, rfl, rfl, rfl, rfl, rfl, rfl, rfl⟩
  case order =>
    intro horder
    rw [endQuery_result, horder]
    rfl

theorem execSupports_of_unbounded {s : State} (hcap : Unbounded s.cfg) (name : Bytes) :
    exec (.supports name) s = .next (endQuery (.answer (supportsParms name)) (startCommand s)) := by
  obtain ⟨-, -, -, hmaxName⟩ := hcap
  refine if_neg ?_
  rw [hmaxName]
  simp

/-- The names that take parameters stand at the FIDs 3 to 5 (30_encoding.md R72, 40_registry_factory.md R101). -/
theorem takesParameters_iff (name : Bytes) :
    name = nameCcittFax ∨ name = nameLzw ∨ name = nameFlate ↔
      classify name = 3 ∨ classify name = 4 ∨ classify name = 5 := by
  obtain ⟨hfid, -⟩ := classifyComparesWholeNames
  have hlzw : filterNames[3]? = some nameLzw := rfl
  have hflate : filterNames[4]? = some nameFlate := rfl
  have hccitt : filterNames[5]? = some nameCcittFax := rfl
  rw [hfid name 3 (by decide), hfid name 4 (by decide), hfid name 5 (by decide), hlzw, hflate, hccitt]
  simp only [Option.some.injEq, eq_comm (a := name)]
  tauto

/-- Settles O9: the registry's answer is a comparison with three of the nine names (`takesParameters_iff`). -/
theorem supportsAnswersForEveryName : Obligations.SupportsAnswersForEveryName := by
  intro name s hcap
  have hanswer : supportsParms name = true ↔ name = nameCcittFax ∨ name = nameLzw ∨ name = nameFlate :=
    decide_eq_true_iff
  exact ⟨_, _, execSupports_of_unbounded hcap name, rfl, rfl, hanswer, hanswer.trans (takesParameters_iff name), rfl, rfl,
    rfl, rfl, rfl, rfl, rfl, rfl⟩

/-! ## NEWFILTER -/

theorem exec_newfilterOf (k : Kind) (parms : Option ParmMap) (s : State) :
    exec (newfilterOf k parms) s = newNative k parms s := by
  cases k <;> rfl

section
variable {s : State} (hcap : Unbounded s.cfg) {k : Kind} {parms : Option ParmMap}
include hcap

theorem newNative_of_fit (hfit : parmsFit s.cfg.paramBits parms = true) :
    newNative k parms s = .next (endOk { startCommand s with inst := constructInst k parms s.inst }) := by
  obtain ⟨-, -, -, hmaxName⟩ := hcap
  simp [newNative, hmaxName, hfit]

theorem newNative_of_unfit (hfit : parmsFit s.cfg.paramBits parms = false) :
    newNative k parms s = .next (endRefusal .badCommand s) := by
  obtain ⟨-, -, -, hmaxName⟩ := hcap
  simp [newNative, hmaxName, hfit]

theorem newUnsupported_of_unbounded (name : Bytes) :
    newUnsupported name s =
      .next (endError .unsupportedFilter { s with inst := { s.inst with valid := false } }) := by
  obtain ⟨-, -, -, hmaxName⟩ := hcap
  simp [newUnsupported, hmaxName]

end

/-- Settles O11: `constructInst` on the started state; its registers are those of `parmReg_constructInst`. -/
theorem newfilterConstructsTheInstance : Obligations.NewfilterConstructsTheInstance := by
  intro k parms s hcap hfit
  refine ⟨_, (exec_newfilterOf k parms s).trans (newNative_of_fit hcap hfit), rfl, rfl, rfl, rfl, ?absent, ?present, rfl, rfl,
    rfl, rfl, rfl, rfl, rfl⟩
  case absent =>
    intro key hkey
    exact (parmReg_constructInst k parms s.inst key).trans (storeParm_of_absent ((mapValue_eq_bind parms key).trans hkey) _)
  case present =>
    intro key v hkey
    exact (parmReg_constructInst k parms s.inst key).trans (storeParm_of_present ((mapValue_eq_bind parms key).trans hkey) _)

/-! ## Data commands that are refused -/

/-- The encode rule of a kind (40_registry_factory.md R104). -/
def encodeRule (k : Kind) : State → Flow :=
  match k with
  | .ascii85 => a85Encode
  | .asciiHex => hexEncode
  | .runLength => rlEncode
  | .lzw => lzwEncode
  | .flate => flateEncode

theorem exec_decodeEncode (k : Kind) (input : Bytes) (s : State) :
    exec (decodeEncode k input) s = dataCommand input none (encodeRule k) s := by
  cases k <;> rfl

theorem dataCommand_of_noInstance {input : Bytes} {limit : Option Int} {body : State → Flow} {s : State}
    (hcap : Unbounded s.cfg) (hlimit : limit.all (fitsParamBits s.cfg.paramBits) = true) (hvalid : s.inst.valid = false) :
    dataCommand input limit body s = .next (endRefusal .noInstance s) := by
  obtain ⟨hmaxIn, -⟩ := hcap
  simp [dataCommand, hmaxIn, hlimit, hvalid]

theorem dataCommand_of_unfitLimit {input : Bytes} {n : Int} {body : State → Flow} {s : State} (hcap : Unbounded s.cfg)
    (hn : fitsParamBits s.cfg.paramBits n = false) :
    dataCommand input (some n) body s = .next (endRefusal .badCommand s) := by
  obtain ⟨hmaxIn, -⟩ := hcap
  simp [dataCommand, hmaxIn, hn]

/-- Without an instance every data command is refused (40_registry_factory.md R104). -/
theorem exec_of_noInstance {k : Kind} {input : Bytes} {n : Int} {i : Instr} {s : State} (hcap : Unbounded s.cfg)
    (hvalid : s.inst.valid = false) (hn : fitsParamBits s.cfg.paramBits n = true)
    (hi : i = decodeEncode k input ∨ i = decodeDecode k input ∨ i = decodeDecodelen k n input) :
    exec i s = .next (endRefusal .noInstance s) := by
  rcases hi with rfl | rfl | rfl
  · rw [exec_decodeEncode]
    exact dataCommand_of_noInstance hcap rfl hvalid
  · rw [exec_decodeDecode]
    exact dataCommand_of_noInstance hcap (by simp) hvalid
  · rw [exec_decodeDecodelen]
    exact dataCommand_of_noInstance hcap hn hvalid

/-- Settles O15: `exec_of_noInstance`. -/
theorem dataCommandsNeedAnInstance : Obligations.DataCommandsNeedAnInstance := by
  intro k input n s i hcap hvalid hn hi
  exact ⟨_, exec_of_noInstance hcap hvalid hn hi, rfl⟩

/-- Settles O12: the error keeps the cleared VALID (`newUnsupported_of_unbounded`), so a data command after it finds no
instance. -/
theorem unsupportedNamesClearTheInstance : Obligations.UnsupportedNamesClearTheInstance := by
  intro parms name s i hcap hi
  have hunsupported : ∃ name', exec i s = newUnsupported name' s := by
    simp only [List.mem_cons, List.not_mem_nil, or_false] at hi
    rcases hi with rfl | rfl | rfl | rfl | rfl <;> exact ⟨_, rfl⟩
  obtain ⟨name', hexec⟩ := hunsupported
  refine ⟨_, hexec.trans (newUnsupported_of_unbounded hcap name'), rfl, ?after⟩
  case after =>
    intro k input n j hn hj
    exact ⟨_, exec_of_noInstance (k := k) (input := input) (n := n) hcap rfl hn hj, rfl⟩

/-! ## Values beyond PARAM_BITS -/

theorem fitsParamBits_eq_false {b : Nat} {v : Int} (h : ¬ (-(2 ^ (b - 1) : Int) ≤ v ∧ v < (2 ^ (b - 1) : Int))) :
    fitsParamBits (some b) v = false :=
  decide_eq_false h

theorem parmsFit_eq_false {bits : Option Nat} {parms : Option ParmMap} {key : ParmKey} {v : Int}
    (hkey : mapValue parms key = some v) (hv : fitsParamBits bits v = false) : parmsFit bits parms = false := by
  rw [parmsFit, List.all_eq_false]
  exact ⟨key, by cases key <;> simp, by simp [hkey, hv]⟩

/-- Settles O13: one value that does not fit makes `parmsFit` false, and a DECODELEN looks at its limit before anything
else. -/
theorem valuesBeyondParamBitsAreRefused : Obligations.ValuesBeyondParamBitsAreRefused := by
  refine ⟨?newfilter, ?decodelen⟩
  case newfilter =>
    intro k parms s b key v hcap hbits hkey hv
    have hunfit : parmsFit s.cfg.paramBits parms = false :=
      parmsFit_eq_false ((mapValue_eq_bind parms key).trans hkey) (hbits ▸ fitsParamBits_eq_false hv)
    exact ⟨_, (exec_newfilterOf k parms s).trans (newNative_of_unfit hcap hunfit), rfl⟩
  case decodelen =>
    intro k input n s b hcap hbits hn
    refine ⟨_, (exec_decodeDecodelen k n input s).trans (dataCommand_of_unfitLimit hcap ?_), rfl⟩
    exact hbits ▸ fitsParamBits_eq_false hn

/-! ## RowGeometry (40_registry_factory.md R107) -/

/-- Settles O17: for a product of at least 1 the rounded-up quotient is at least 1 and the clamp is idle. -/
theorem rowGeometryOfLegalParameters : Obligations.RowGeometryOfLegalParameters := by
  intro i hgeo
  have hrow := Predictor.rowBytes_pos hgeo
  have hpixel := Predictor.bytesPerPixel_pos i
  obtain ⟨hcolors, hbpc, hcolumns⟩ := hgeo
  have hbpc' : 1 ≤ parm i .bitsPerComponent := by
    simp only [List.mem_cons, List.not_mem_nil, or_false] at hbpc
    omega
  have hproduct : 1 ≤ parm i .colors * parm i .bitsPerComponent := by nlinarith
  have hbytes : (bytesPerPixel i : Int) = (parm i .colors * parm i .bitsPerComponent + 7) / 8 := by
    unfold bytesPerPixel bytesPerPixelOf
    omega
  have hcolumns' : ((parm i .columns).toNat : Int) = parm i .columns := Int.toNat_of_nonneg (by omega)
  exact ⟨by omega, by omega, hpixel, by rw [rowBytes, Nat.cast_mul, hcolumns'], hrow⟩

end Sys2Proof.Proofs.Registry
end

section
/-! The in-stream symbols of the text formats and of the predictors (41_predictor.md R122 to R129, 44_ascii85.md R193 to R198,
45_asciihex.md R212 to R216): one equation for each branch of a symbol, from the state behind it. -/

namespace Sys2Proof.Proofs.Symbols

open Sys2Proof Sys2Proof.Machine Sys2Proof.Streams Sys2Proof.Proofs.Predictor Sys2Proof.Proofs.Ascii85Body

/-- A symbol whose rule raises fails in the state it was given. -/
theorem fails_of_raise {f : Flow} {e : EngineError} {s : State} (h : f = .raise e s) :
    ∃ t, settleSymbol f = .next t ∧ FailsAs (.error e) s t :=
  ⟨endError e s, congrArg settleSymbol h, rfl⟩

/-- A symbol whose rule stops ends the command `ok`. -/
theorem ends_of_stop {f : Flow} {u : State} (hcap : Unbounded u.cfg) (h : f = .stop u) :
    ∃ t, settleSymbol f = .next t ∧ EndsOkAs u t :=
  ⟨endOk u, (congrArg settleSymbol h).trans (settleSymbol_stop hcap), rfl⟩

/-! ## ASCIIHex -/

theorem digits_append : ∀ h v : BitVec 4, h ++ v = BitVec.ofNat 8 (16 * h.toNat + v.toNat) := by decide

section
variable {ch : Byte} {v h : BitVec 4} {s : State} (hv : hexVal ch = some v)
include hv

theorem hexDigit_first (hhi : s.work.hi = none) : hexDigit ch s = .more (setHi (some v) s) := by
  simp only [hexDigit, hv, hhi]

theorem hexDigit_second (hhi : s.work.hi = some h) : hexDigit ch s = .more (setHi none (emit [h ++ v] s)) := by
  simp only [hexDigit, hv, hhi]

end

theorem hexEod_even {s : State} (hhi : s.work.hi = none) : hexEod s = .stop s := by
  simp only [hexEod, hhi]

theorem hexEod_odd {s : State} {h : BitVec 4} (hhi : s.work.hi = some h) : hexEod s = .stop (emit [h ++ 0#4] s) := by
  simp only [hexEod, hhi]

/-- Settles O23: the branches of `hexDigit`, `hexWs` and `hexEod`. -/
theorem hexSymbols : Obligations.HexSymbols := by
  refine ⟨?first, ?second, ?ws, ?even, ?odd⟩
  case first =>
    intro ch v s hv hhi
    exact congrArg settleSymbol (hexDigit_first hv hhi)
  case second =>
    intro ch v h s hv hhi
    rw [← digits_append]
    exact congrArg settleSymbol (hexDigit_second hv hhi)
  case ws =>
    intro ch s hws
    exact congrArg settleSymbol (if_pos hws)
  case even =>
    intro s hcap hhi
    exact ends_of_stop hcap (hexEod_even hhi)
  case odd =>
    intro h s hcap hhi
    have hpadded : h ++ 0#4 = BitVec.ofNat 8 (16 * h.toNat) := digits_append h 0
    rw [← hpadded]
    exact ends_of_stop (u := emit [h ++ 0#4] s) hcap (hexEod_odd hhi)

/-! ## ASCII85 -/

theorem word_lt_iff (v : Nat) : maxWord < v ↔ 2 ^ 32 ≤ v := by
  rw [maxWord]; omega

theorem not_word_lt {v : Nat} (h : v < 2 ^ 32) : ¬ maxWord < v :=
  mt (word_lt_iff v).1 (Nat.not_le.2 h)

theorem isA85Digit_of_range {ch : Byte} (hlow : 0x21 ≤ ch) (hhigh : ch ≤ 0x75) : isA85Digit ch = true :=
  decide_eq_true ⟨hlow, hhigh⟩

section
variable {ch : Byte} {s : State} (hdigit : isA85Digit ch = true)
include hdigit

/-- A digit that does not complete a group joins it (44_ascii85.md R195). -/
theorem a85Digit_joins (hlen : s.work.group.length ≠ 4) :
    a85Digit ch s = .more (setGroup (s.work.group ++ [ch.toNat - 33]) s) := by
  have hfive : ¬ (s.work.group ++ [ch.toNat - 33]).length = 5 := by simpa using hlen
  rw [a85Digit, if_neg (by simp [hdigit])]
  exact if_neg hfive

/-- The fifth digit emits the group or overflows (44_ascii85.md R195, R198). -/
theorem a85Digit_completes {d0 d1 d2 d3 : Nat} (hgroup : s.work.group = [d0, d1, d2, d3]) :
    a85Digit ch s =
      if maxWord < a85Number d0 d1 d2 d3 (ch.toNat - 33) then .raise .a85Invalid s
      else .more (setGroup [] (emit (a85Bytes (a85Number d0 d1 d2 d3 (ch.toNat - 33))) s)) := by
  rw [a85Digit, if_neg (by simp [hdigit]), hgroup, a85Bytes_eq, ← a85Value_five]
  exact if_pos rfl

end

/-- The missing digits of a last group are 84 (44_ascii85.md R196). -/
theorem a85Value_padded (d0 d1 : Nat) {more : List Nat} (hlen : more.length ≤ 2) :
    a85Value ((d0 :: d1 :: more) ++ List.replicate (5 - (d0 :: d1 :: more).length) 84) =
      a85Number d0 d1 (more.getD 0 84) (more.getD 1 84) 84 := by
  rw [← a85Value_five]
  match more, hlen with
  | [], _ | [_], _ | [_, _], _ => rfl

/-- The terminator behind 2 to 4 digits emits one byte fewer or overflows (44_ascii85.md R196, R198). -/
theorem a85Eod_partial {d0 d1 : Nat} {more : List Nat} {s : State} (hgroup : s.work.group = d0 :: d1 :: more)
    (hlen : more.length ≤ 2) :
    a85Eod s =
      if maxWord < a85Number d0 d1 (more.getD 0 84) (more.getD 1 84) 84 then .raise .a85Invalid s
      else .stop (emit ((a85Bytes (a85Number d0 d1 (more.getD 0 84) (more.getD 1 84) 84)).take (1 + more.length)) s) := by
  have hone : ¬ (d0 :: d1 :: more).length = 1 := by simp
  have hcount : (d0 :: d1 :: more).length - 1 = 1 + more.length := by simp; omega
  simp only [a85Eod, hgroup, if_neg hone, a85Value_padded d0 d1 hlen, hcount, a85Bytes_eq]
  exact if_neg (by simp)

theorem a85Eod_empty {s : State} (hgroup : s.work.group = []) : a85Eod s = .stop s := by
  simp only [a85Eod, hgroup, List.length_nil, if_true]

theorem a85Eod_single {s : State} {d : Nat} (hgroup : s.work.group = [d]) : a85Eod s = .raise .a85Invalid s := by
  simp [a85Eod, hgroup]

/-- Settles O27: a digit joins or completes its group, and the terminator emits what is left. -/
theorem ascii85Symbols : Obligations.Ascii85Symbols := by
  refine ⟨?joins, ?completes, ?z, ?ws, ?eod, ?eodPartial⟩
  case joins =>
    intro ch s hlow hhigh hlen
    exact congrArg settleSymbol (a85Digit_joins (isA85Digit_of_range hlow hhigh) hlen)
  case completes =>
    intro ch d0 d1 d2 d3 s hlow hhigh hgroup hword
    exact congrArg settleSymbol ((a85Digit_completes (isA85Digit_of_range hlow hhigh) hgroup).trans (if_neg (not_word_lt hword)))
  case z =>
    intro s hgroup
    exact congrArg settleSymbol (if_pos hgroup)
  case ws =>
    intro ch s hws
    exact congrArg settleSymbol (if_pos hws)
  case eod =>
    intro s hcap hgroup
    exact ends_of_stop hcap (a85Eod_empty hgroup)
  case eodPartial =>
    intro d0 d1 more s hcap hgroup hlen hword
    exact ends_of_stop (u := emit _ s) hcap ((a85Eod_partial hgroup hlen).trans (if_neg (not_word_lt hword)))

/-- Settles O28: the other branches of the same rules. -/
theorem ascii85Traps : Obligations.Ascii85Traps := by
  refine ⟨?overflow, ?z, ?single, ?eodOverflow, ?illegal⟩
  case overflow =>
    intro ch d0 d1 d2 d3 s hlow hhigh hgroup hword
    exact fails_of_raise
      ((a85Digit_completes (isA85Digit_of_range hlow hhigh) hgroup).trans (if_pos ((word_lt_iff _).2 hword)))
  case z =>
    intro s hgroup
    exact fails_of_raise (if_neg hgroup)
  case single =>
    intro d s hgroup
    exact fails_of_raise (a85Eod_single hgroup)
  case eodOverflow =>
    intro d0 d1 more s hgroup hlen hword
    exact fails_of_raise ((a85Eod_partial hgroup hlen).trans (if_pos ((word_lt_iff _).2 hword)))
  case illegal =>
    intro ch s _
    exact fails_of_raise rfl

/-! ## Rows -/

/-- Each row filter is the one of its tag. -/
theorem exec_rowFilter {i : Instr} {tag : Nat}
    (h : (i, tag) ∈ ([(.pngNone, 0), (.pngSub, 1), (.pngUp, 2), (.pngAvg, 3), (.pngPaeth, 4)] : List (Instr × Nat)))
    (s : State) : exec i s = settleSymbol (pngRow (pngFilter tag) s) := by
  simp only [List.mem_cons, List.not_mem_nil, or_false, Prod.mk.injEq] at h
  rcases h with ⟨rfl, rfl⟩ | ⟨rfl, rfl⟩ | ⟨rfl, rfl⟩ | ⟨rfl, rfl⟩ | ⟨rfl, rfl⟩
  · rw [← noneRow_eq_pngFilter]
    rfl
  · rw [← subRow_eq_pngFilter]
    rfl
  · rw [← upRow_eq_pngFilter]
    rfl
  · rw [← avgRow_eq_pngFilter]
    rfl
  · rw [← paethRow_eq_pngFilter]
    rfl

/-- Settles O34: a whole chunk is filtered (`pngRow_of_wholeChunk`) to the row of its tag (`pngRowOf_pngFilter`). -/
theorem pngRowFilters : Obligations.PngRowFilters := by
  intro i tag s hi hchunk
  refine ⟨_, pngRowOf_pngFilter (bytesPerPixel_pos s.inst) tag s.work.prevRow _, ?_⟩
  rw [exec_rowFilter hi, pngRow_of_wholeChunk hchunk rfl]
  rfl

/-- Settles O35: a whole row is differenced (`tiffHdiff_of_wholeRow`, `tiffRowOf_horDiff`). -/
theorem tiffRowTransform : Obligations.TiffRowTransform := by
  intro s hcolors hrow
  exact ⟨_, tiffRowOf_horDiff (by omega) _, congrArg settleSymbol (tiffHdiff_of_wholeRow hrow)⟩

/-! ## Illegal symbols -/

/-- Settles O37: each of these rows raises at once. -/
theorem illegalSymbolsRaise : Obligations.IllegalSymbolsRaise := by
  refine ⟨?png, ?hex, ?lzw, ?pred, ?a85, ?hexWs, ?a85Ws, ?hexDigit, ?a85Digit, ?rlRep⟩
  case png => exact fun _ _ => fails_of_raise rfl
  case hex => exact fun _ _ => fails_of_raise rfl
  case lzw => exact fun _ _ => fails_of_raise rfl
  case pred => exact fun _ _ => fails_of_raise rfl
  case a85 => exact fun _ _ => fails_of_raise rfl
  case hexWs => exact fun _ _ hws => fails_of_raise (if_neg hws)
  case a85Ws => exact fun _ _ hws => fails_of_raise (if_neg hws)
  case hexDigit =>
    intro ch s hval
    exact fails_of_raise (by rw [Machine.hexDigit, hval])
  case a85Digit =>
    intro ch s hrange
    exact fails_of_raise (if_pos (decide_eq_false hrange))
  case rlRep => exact fun s => fails_of_raise (show Machine.rlRep 0 s = .raise .rlTruncated s from if_pos rfl)

end Sys2Proof.Proofs.Symbols
end

section
/-! The LZW codes one by one (42_lzw.md R142 to R152): what each leaves, where it is corrupt, and that the working registers
stay in range and the width on its schedule. -/

namespace Sys2Proof.Proofs.LzwCodes

open Sys2Proof Sys2Proof.Machine Sys2Proof.Streams Sys2Proof.Proofs.LzwExpansion Sys2Proof.Proofs.LzwDecode
open Sys2Proof.Proofs.Symbols

/-! ## Data codes -/

section
variable {s : State} {code : BitVec 12} {str : Bytes}

/-- A reference to an entry of the table (42_lzw.md R147). -/
theorem lzwRef_of_entry (h258 : 258 ≤ code.toNat) (hlt : code.toNat < s.work.next)
    (hentry : s.work.table[s.work.next - 1 - code.toNat]? = some str) : lzwRef code s = lzwData str s := by
  rw [lzwRef, tableEntry, if_pos ⟨h258, hlt⟩, hentry]

theorem lzwRef_of_outside (h : code.toNat < 258 ∨ s.work.next ≤ code.toNat) : lzwRef code s = .raise .lzwCorrupt s := by
  rw [lzwRef, tableEntry, if_neg (by omega)]

/-- The entry about to be defined (42_lzw.md R148). -/
theorem lzwKwkwk_of_next {p : Bytes} (hcode : code.toNat = s.work.next) (hprev : s.work.prev = some p) :
    lzwKwkwk code s = lzwData (p ++ p.take 1) s := by
  simp only [lzwKwkwk, hprev, if_pos hcode]

theorem lzwKwkwk_of_outside (h : s.work.prev = none ∨ code.toNat ≠ s.work.next) :
    lzwKwkwk code s = .raise .lzwCorrupt s := by
  cases hprev : s.work.prev with
  | none => simp only [lzwKwkwk, hprev]
  | some p =>
    have hcode : code.toNat ≠ s.work.next := h.resolve_left (by simp [hprev])
    simp only [lzwKwkwk, hprev, if_neg hcode]

/-- With the table full no data code is legal (42_lzw.md R152). -/
theorem lzwData_of_full (hfull : s.work.next = 4096) : lzwData str s = .raise .lzwCorrupt s :=
  if_pos hfull

theorem lzwRef_of_full (hfull : s.work.next = 4096) : lzwRef code s = .raise .lzwCorrupt s := by
  rw [lzwRef]
  split
  · rfl
  · exact lzwData_of_full hfull

theorem lzwKwkwk_of_full (hfull : s.work.next = 4096) : lzwKwkwk code s = .raise .lzwCorrupt s := by
  by_cases h : s.work.prev = none ∨ code.toNat ≠ s.work.next
  · exact lzwKwkwk_of_outside h
  · push Not at h
    obtain ⟨hprev, hcode⟩ := h
    obtain ⟨p, hp⟩ := Option.ne_none_iff_exists'.1 hprev
    rw [lzwKwkwk_of_next hcode hp, lzwData_of_full hfull]

theorem lzwData_of_room (hroom : s.work.next ≠ 4096) :
    lzwData str s = .more { lzwEmit str s with work := lzwWiden (lzwGrow str (lzwEmit str s).work) } :=
  if_neg hroom

end

/-- Settles O38: each of the three codes is `lzwData` of its string, which emits it, grows the table and widens the code. -/
theorem lzwDataCodes : Obligations.LzwDataCodes := by
  intro i str s hroom hcode
  have hdata : exec i s = settleSymbol (lzwData str s) := by
    rcases hcode with ⟨code, rfl, rfl⟩ | ⟨code, rfl, h258, hlt, hentry⟩ | ⟨code, p, rfl, hnext, hprev, rfl⟩
    · rfl
    · exact congrArg settleSymbol (lzwRef_of_entry h258 hlt hentry)
    · exact congrArg settleSymbol (lzwKwkwk_of_next hnext hprev)
  rw [hdata, lzwData_of_room hroom, Expansion.lzwWiden_eq]
  by_cases hone : parm s.inst .predictor = 1
  · cases hprev : s.work.prev <;> simp [settleSymbol, lzwEmit_of_one hone, lzwGrow, hprev, hone, emit]
  · cases hprev : s.work.prev <;> simp [settleSymbol, lzwEmit_of_ne_one hone, lzwGrow, hprev, hone]

/-- Settles O39: the clear code writes its four registers; the end-of-data code stops or hands RAW over. -/
theorem lzwClearAndEndOfData : Obligations.LzwClearAndEndOfData := by
  refine ⟨fun s => rfl, ?one, ?other⟩
  case one =>
    intro s hcap hone
    exact ends_of_stop hcap (lzwEod_of_one hone)
  case other =>
    intro s hne
    exact congrArg settleSymbol (lzwEod_of_ne_one hne)

/-- A code above the entry about to be defined, that entry without a previous string, and every data code with the table full
are illegal (42_lzw.md R149, R152). -/
theorem decodeLzw_illegal {next : Nat} {prev : Option Bytes} {c : Nat} (h258 : 258 ≤ next) (h256 : c ≠ 256) (h257 : c ≠ 257)
    (h : next < c ∨ (c = next ∧ prev = none) ∨ next = 4096) :
    decodeLzw next prev.isSome c = .lzwIllegal (BitVec.ofNat 12 c) := by
  rw [decodeLzw, lzwCases, if_neg h256, if_neg h257]
  by_cases hfull : next = 4096
  · exact if_pos hfull
  · have hnew : ¬ (c = next ∧ prev.isSome = true) := by
      rintro ⟨rfl, hprev⟩
      rcases h with h | ⟨-, rfl⟩ | h
      · exact absurd h (lt_irrefl c)
      · exact absurd hprev (by simp)
      · exact hfull h
    rw [if_neg hfull, if_neg (by omega), if_neg (by omega), if_neg hnew]

/-- Settles O40: the corrupt branches of the data codes, and `decodeLzw_illegal`. -/
theorem lzwBadCodesAreCorrupt : Obligations.LzwBadCodesAreCorrupt := by
  refine ⟨?lit, ?ref, ?kwkwk, ?any⟩
  case lit =>
    intro code s hfull
    exact fails_of_raise (lzwData_of_full hfull)
  case ref =>
    rintro code s (hfull | houtside)
    · exact fails_of_raise (lzwRef_of_full hfull)
    · exact fails_of_raise (lzwRef_of_outside houtside)
  case kwkwk =>
    rintro code s (hfull | houtside)
    · exact fails_of_raise (lzwKwkwk_of_full hfull)
    · exact fails_of_raise (lzwKwkwk_of_outside houtside)
  case any =>
    intro c s h258 h256 h257 h
    rw [decodeLzw_illegal h258 h256 h257 h]
    exact fails_of_raise rfl

/-! ## The ranges of the working registers (10_state.md R32) -/

/-- The schedule gives the next width where `next + 1` reaches the power (42_lzw.md R151). -/
theorem scheduledWidth_succ (n : Nat) (h : n ≤ 4096) :
    (if scheduledWidth n < 12 ∧ 2 ^ scheduledWidth n ≤ n + 1 + 1 then scheduledWidth n + 1 else scheduledWidth n) =
      scheduledWidth (n + 1) := by
  unfold scheduledWidth
  split_ifs <;> omega

/-- At its scheduled width a table that does not grow needs no wider code. -/
theorem scheduledWidth_idle (n : Nat) :
    ¬ (scheduledWidth n < 12 ∧ 2 ^ scheduledWidth n ≤ n + 1) := by
  unfold scheduledWidth
  split_ifs <;> omega

section
variable {w : Work} {str : Bytes} (hw : LzwOk w)
include hw

theorem lzwOk_widen : LzwOk (lzwWiden w) := by
  obtain ⟨hmin, hmax, hrest⟩ := hw
  rw [Expansion.lzwWiden_eq]
  refine ⟨?_, ?_, hrest⟩ <;> dsimp only <;> split <;> omega

/-- The new entry is the previous string and one byte more (42_lzw.md R148). -/
theorem lzwOk_grow (hroom : w.next ≠ 4096) (hstr : str ≠ []) : LzwOk (lzwGrow str w) := by
  obtain ⟨hmin, hmax, hnext, hcap, htable, hprev⟩ := hw
  have hstr' : ∀ p, some str = some p → p ≠ [] := by
    rintro _ ⟨⟩
    exact hstr
  unfold lzwGrow
  split
  case h_1 => exact ⟨hmin, hmax, hnext, hcap, htable, hstr'⟩
  case h_2 p hp =>
    have hp' := List.length_pos_iff.2 (hprev p hp)
    have hstrlen := List.length_pos_iff.2 hstr
    refine ⟨hmin, hmax, ?_, ?_, List.forall_mem_cons.2 ⟨?_, htable⟩, hstr'⟩
    · simp [hnext]
      omega
    · dsimp only
      omega
    · simp
      omega

/-- The string of a legal code is not empty (42_lzw.md R146 to R148). -/
theorem ne_nil_of_lzwString {c : Nat} (h : lzwString w.table.reverse w.prev c = some str) : str ≠ [] := by
  obtain ⟨-, -, -, -, htable, hprev⟩ := hw
  obtain ⟨-, ⟨-, rfl⟩ | ⟨-, -, hentry⟩ | ⟨-, -, p, hp, rfl⟩⟩ := lzwString_eq_some h
  · simp
  · have hlen := htable str (List.mem_reverse.1 (List.mem_of_getElem? hentry))
    rintro rfl
    simp at hlen
  · simp [hprev p hp]

end

/-- A legal data code keeps the width on its schedule. -/
theorem scheduled_widen_grow {w : Work} (str : Bytes) (hcap : w.next ≤ 4096) (h : w.width = scheduledWidth w.next) :
    (lzwWiden (lzwGrow str w)).width = scheduledWidth (lzwWiden (lzwGrow str w)).next := by
  rw [Expansion.lzwWiden_eq]
  unfold lzwGrow
  split
  · simp only [h]
    exact if_neg (scheduledWidth_idle w.next)
  · simp only [h]
    exact scheduledWidth_succ w.next hcap

/-- A code that names a string decodes to a row that stands for it (42_lzw.md R142). -/
theorem exec_decodeLzw_of_string {s : State} {c : Nat} {str : Bytes} (hnext : s.work.next = 258 + s.work.table.length)
    (hc : c ≤ 4095) (h256 : c ≠ 256) (h257 : c ≠ 257) (h : lzwString s.work.table.reverse s.work.prev c = some str) :
    s.work.next ≠ 4096 ∧ exec (decodeLzw s.work.next s.work.prev.isSome c) s = settleSymbol (lzwData str s) := by
  have hcode : (BitVec.ofNat 12 c).toNat = c := Nat.mod_eq_of_lt (by omega)
  obtain ⟨hroom, hclass⟩ := lzwString_eq_some h
  rw [List.length_reverse] at hroom hclass
  have hroom' : s.work.next ≠ 4096 := by omega
  refine ⟨hroom', ?_⟩
  rw [decodeLzw, lzwCases, if_neg h256, if_neg h257, if_neg hroom']
  rcases hclass with ⟨hlit, rfl⟩ | ⟨hlit, hlt, hentry⟩ | ⟨hlit, hnew, p, hprev, rfl⟩
  · rw [if_pos hlit]
    rfl
  · have hindex : s.work.table.length - 1 - (c - 258) = s.work.next - 1 - c := by omega
    rw [List.getElem?_reverse (by omega), hindex] at hentry
    rw [if_neg hlit, if_pos (by omega)]
    exact congrArg settleSymbol (lzwRef_of_entry (by omega) (by omega) (by rw [hcode]; exact hentry))
  · rw [if_neg hlit, if_neg (by omega), if_pos ⟨by omega, by simp [hprev]⟩]
    exact congrArg settleSymbol (lzwKwkwk_of_next (by omega) hprev)

/-- The emitted string is in OUT or RAW; the registers of 10_state.md R32 are as they were. -/
theorem lzwEmit_registers (str : Bytes) (s : State) :
    ∃ raw, (lzwEmit str s).work = { s.work with raw := raw } := by
  rw [lzwEmit_work]
  split
  · exact ⟨s.work.raw, rfl⟩
  · exact ⟨_, rfl⟩

/-- Settles O41: a clear code gives the registers their first values; a data code grows the table by an entry
(`lzwOk_grow`) and widens the code by the schedule (`scheduled_widen_grow`). -/
theorem lzwRegistersStayInRange : Obligations.LzwRegistersStayInRange := by
  intro s c hw h257 hc hlegal
  by_cases h256 : c = 256
  · subst h256
    refine ⟨_, rfl, ?_, fun _ => rfl⟩
    exact ⟨le_rfl, Nat.le_add_right 9 3, rfl, Nat.le_add_right 258 3838, by simp, by simp⟩
  · obtain ⟨str, hstr⟩ := Option.isSome_iff_exists.1 (hlegal.resolve_left h256)
    have hstr' := ne_nil_of_lzwString hw hstr
    obtain ⟨raw, hraw⟩ := lzwEmit_registers str s
    have hw' : LzwOk (lzwEmit str s).work := hraw ▸ hw
    obtain ⟨-, -, hnext, hcap, -⟩ := hw
    obtain ⟨hroom, hexec⟩ := exec_decodeLzw_of_string hnext hc h256 h257 hstr
    refine ⟨_, hexec.trans (congrArg settleSymbol (lzwData_of_room hroom)), ?_, fun hwidth => ?_⟩
    · exact lzwOk_widen (lzwOk_grow hw' (by rw [hraw]; exact hroom) hstr')
    · exact scheduled_widen_grow str (by rw [hraw]; exact hcap) (by rw [hraw]; exact hwidth)

end Sys2Proof.Proofs.LzwCodes
end

section
/-! The Flate wrapper (43_flate.md R172 to R180). With legal parameters DECODE is the primitive and then the resolved
predictor on RAW; the trace of a broken buffer is that of the predictor's rows. ENCODE is the primitive with Predictor 1 only. -/

namespace Sys2Proof.Proofs.Flate

open Sys2Proof Sys2Proof.Machine Sys2Proof.Streams Sys2Proof.Proofs.Predictor Sys2Proof.Proofs.LzwDecode
open Sys2Proof.Proofs.BoundedDecode

/-! ## The predictor's rows unit by unit (47_bounded_decode.md R247) -/

section
variable {s : State} (hcap : Unbounded s.cfg)
include hcap

theorem pngRows_eq_loop (limit : Int) :
    pngRows limit s =
      loop limit pngNext (leftoverEnd (pngFrame s)) (s.work.raw.length / (1 + rowBytes s.inst))
        (startRows (startChunks s)) :=
  rowLoop_of_unbounded (s := startChunks s) hcap _ _ _ _

/-- Whole chunks with legal tags are reconstructed, and then the length is tested. -/
theorem pngRows_of_legalTags (hlegal : ∀ r, r < s.work.raw.length / (1 + rowBytes s.inst) → chunkTag s r ≤ 4) :
    ∃ t, pngRows (-1) s = leftoverEnd (pngFrame s) t ∧
      PngRowsDone s (s.work.raw.length / (1 + rowBytes s.inst)) t := by
  obtain ⟨t, hdone, hloop⟩ := pngRows_loop (atEnd := leftoverEnd (pngFrame s)) le_rfl hlegal
  refine ⟨t, ?_, hdone⟩
  rw [pngRows_eq_loop hcap, ← Nat.add_zero (_ / _), hloop 0]
  exact if_pos (checkBufLen_neg (by decide))

/-- At the first illegal tag the rows end with the error, behind the chunks before it. -/
theorem pngRows_of_firstIllegalTag {m : Nat} (hm : m < s.work.raw.length / (1 + rowBytes s.inst))
    (hlegal : ∀ r, r < m → chunkTag s r ≤ 4) (hillegal : ¬ chunkTag s m ≤ 4) :
    ∃ t, pngRows (-1) s = .raise .predictorData t ∧ PngRowsDone s m t := by
  obtain ⟨t, hdone, hloop⟩ := pngRows_loop (atEnd := leftoverEnd (pngFrame s)) hm.le hlegal
  refine ⟨t, ?_, hdone⟩
  obtain ⟨y, cur, -, rfl⟩ := hdone
  obtain ⟨k, hk⟩ := Nat.exists_eq_add_of_lt hm
  rw [pngRows_eq_loop hcap, hk, Nat.add_assoc, hloop (k + 1)]
  exact loop_end (checkBufLen_neg (by decide)) (pngNext_of_illegalTag (chunk_le_raw hm) hillegal) (by simp)

/-- A buffer that is broken behind `m` whole chunks with legal tags ends with the error, behind their rows. -/
theorem pngRows_of_fault {m : Nat} (hm : m ≤ s.work.raw.length / (1 + rowBytes s.inst))
    (hlegal : ∀ r, r < m → chunkTag s r ≤ 4)
    (hend : m = s.work.raw.length / (1 + rowBytes s.inst) → s.work.raw.length % (1 + rowBytes s.inst) ≠ 0)
    (hillegal : m < s.work.raw.length / (1 + rowBytes s.inst) → ¬ chunkTag s m ≤ 4) :
    ∃ t, pngRows (-1) s = .raise .predictorData t ∧ PngRowsDone s m t := by
  rcases hm.lt_or_eq with hlt | rfl
  · exact pngRows_of_firstIllegalTag hcap hlt hlegal (hillegal hlt)
  · obtain ⟨t, hrows, hdone⟩ := pngRows_of_legalTags hcap hlegal
    refine ⟨t, hrows.trans ?_, hdone⟩
    obtain ⟨y, cur, -, rfl⟩ := hdone
    exact if_neg (hend rfl)

end

/-! ## The rules on an instance that passes validation -/

theorem validateParms_of_legal {i : Inst} (hgeo : GeometryOk i)
    (hpred : parm i .predictor ∈ ([1, 2, 10, 11, 12, 13, 14, 15] : List Int)) : validateParms .flate i = none := by
  obtain ⟨hcolors, hbpc, hcolumns⟩ := hgeo
  have hcolors' : ¬ parm i .colors ≤ 0 := by omega
  have hcolumns' : ¬ parm i .columns < 1 := by omega
  rw [Validation.validateParms_eq_firstFailing]
  simp only [checks, hpred, hcolors', hcolumns', hbpc]
  rfl

section
variable {s : State} (hvalid : validateParms .flate s.inst = none)
include hvalid

theorem flateDecode_of_valid : flateDecode s = inflateThen applyPredictor s := by
  rw [flateDecode, hvalid]

theorem flateDecodeLazy_of_valid (limit : Int) :
    flateDecodeLazy limit s =
      if checkBufLen s.out.length limit = false then .stop s else inflateThen (applyPredictorLazy limit) s := by
  rw [flateDecodeLazy, hvalid]

theorem flateDecodeLazy_unlimited : flateDecodeLazy (-1) s = inflateThen (applyPredictorLazy (-1)) s := by
  rw [flateDecodeLazy_of_valid hvalid]
  exact if_neg (by simp [checkBufLen_neg])

theorem flateEncode_of_one (hone : parm s.inst .predictor = 1) :
    flateEncode s = .stop (emit (deflate s.cfg s.input) s) := by
  rw [flateEncode, hvalid]
  exact if_neg (not_not.2 hone)

theorem flateEncode_of_ne_one (hne : parm s.inst .predictor ≠ 1) : flateEncode s = .refuse .encodePredictor s := by
  rw [flateEncode, hvalid]
  exact if_pos hne

end

section
variable {s : State} {r : Bytes} (next : State → Flow)

/-- A corrupt stream leaves no bytes (43_flate.md R174). -/
theorem inflateThen_of_none (h : inflate s.cfg s.input = none) : inflateThen next s = .raise .flateCorrupt s := by
  rw [inflateThen, h]

theorem inflateThen_of_some (h : inflate s.cfg s.input = some r) :
    inflateThen next s = next { s with work := { s.work with raw := r } } := by
  rw [inflateThen, h]

end

/-! ## The resolved predictor -/

section
variable {s : State} (limit : Int)

theorem applyPredictor_of_one (h : parm s.inst .predictor = 1) : applyPredictor s = .stop (emit s.work.raw s) := by
  rw [applyPredictor, h]
  rfl

theorem applyPredictorLazy_of_one (h : parm s.inst .predictor = 1) :
    applyPredictorLazy limit s = .stop (emit s.work.raw s) := by
  rw [applyPredictorLazy, h]
  rfl

theorem applyPredictor_of_two (h : parm s.inst .predictor = 2) : applyPredictor s = predTiff s := by
  rw [applyPredictor, h]
  rfl

theorem applyPredictorLazy_of_two (h : parm s.inst .predictor = 2) :
    applyPredictorLazy limit s = tiffRows limit (leftoverEnd (tiffFrame s)) s := by
  rw [applyPredictorLazy, h]
  rfl

/-- The Predictor values 10 to 15 decode alike (41_predictor.md R133). -/
theorem predCases_of_png {α : Type} {v : Int} (hlow : 10 ≤ v) (hhigh : v ≤ 15) (none tiff png : α) (undefined : Int → α) :
    predCases v none tiff png png png png png png undefined = png := by
  unfold predCases
  split_ifs <;> first | omega | rfl

theorem applyPredictor_of_png (hlow : 10 ≤ parm s.inst .predictor) (hhigh : parm s.inst .predictor ≤ 15) :
    applyPredictor s = predPng s :=
  predCases_of_png hlow hhigh ..

theorem applyPredictorLazy_of_png (hlow : 10 ≤ parm s.inst .predictor) (hhigh : parm s.inst .predictor ≤ 15) :
    applyPredictorLazy limit s = pngRows limit s :=
  predCases_of_png hlow hhigh ..

end

theorem rowLoop_ne_more (frame : Nat) (limit : Int) (body : State → Flow) {atEnd : State → Flow}
    (hend : ∀ s u, atEnd s ≠ .more u) (s u : State) : rowLoop frame limit body atEnd s ≠ .more u := by
  unfold rowLoop
  split
  · exact loop_ne_more hend _ _ _
  · simp

/-- A dispatch on the Predictor value ends the command if each of its branches does. -/
theorem predCases_ne_more {v : Int} {none tiff png : Flow} {undefined : Int → Flow} {u : State}
    (hnone : none ≠ .more u) (htiff : tiff ≠ .more u) (hpng : png ≠ .more u)
    (hundefined : ∀ v, undefined v ≠ .more u) :
    predCases v none tiff png png png png png png undefined ≠ .more u := by
  unfold predCases
  split_ifs
  exacts [hnone, htiff, hpng, hpng, hpng, hpng, hpng, hpng, hundefined v]

/-- The predictor ends the command. -/
theorem applyPredictor_ne_more (s u : State) : applyPredictor s ≠ .more u := by
  have htiff : tiffBuffer s ≠ .more u := by
    unfold tiffBuffer
    split
    · exact rowLoop_ne_more _ _ _ (by simp) _ _
    · simp
  have hpng : pngBuffer s ≠ .more u := by
    unfold pngBuffer
    split
    · exact rowLoop_ne_more _ _ _ (by simp) _ _
    · simp
  exact predCases_ne_more (by simp [predNone]) htiff hpng (by simp [predUndefined])

/-! ## ENCODE -/

/-- Settles O47: the two branches of `flateEncode` behind the validation. -/
theorem flateEncodeIsDeflateOrRefusal : Obligations.FlateEncodeIsDeflateOrRefusal := by
  intro input s hs hgeo
  refine ⟨fun hone => ?deflate, fun hpred => ?refusal⟩
  case deflate =>
    have hvalid := validateParms_of_legal hgeo (by simp [hone])
    exact dataCommand_of_stop (limit := none) hs rfl
      (flateEncode_of_one (s := startData input none s) hvalid hone) ⟨rfl, rfl, rfl, rfl⟩
  case refusal =>
    have hvalid := validateParms_of_legal hgeo (List.mem_cons_of_mem _ hpred)
    have hne : parm s.inst .predictor ≠ 1 := by
      rintro hone
      rw [hone] at hpred
      exact absurd hpred (by decide)
    have hrun : exec (.encodeFlate input) s = settleCommand (flateEncode (startData input none s)) :=
      dataCommand_of_ready hs rfl
    refine ⟨endRefusal .encodePredictor (startData input none s), ?_, rfl⟩
    rw [hrun, flateEncode_of_ne_one (s := startData input none s) hvalid hne]
    rfl

/-! ## DECODE -/

section
variable {input r : Bytes} {s : State} (hgeo : GeometryOk s.inst)
include hgeo

/-- With Predictor 1 the inflated bytes are delivered, or the limit was reached before them. -/
theorem flateDecodeLazy_of_one (hone : parm s.inst .predictor = 1) (hout : s.out = [])
    (hinflate : inflate s.cfg s.input = some r) (limit : Int) : StopsWithin limit s r (flateDecodeLazy limit s) := by
  have hvalid := validateParms_of_legal hgeo (by simp [hone])
  rw [flateDecodeLazy_of_valid hvalid]
  by_cases hfull : checkBufLen s.out.length limit = false
  · rw [if_pos hfull]
    exact ⟨s, rfl, ⟨rfl, rfl, rfl, rfl⟩, by rw [hout]; exact List.nil_prefix, .inr hfull⟩
  · rw [if_neg hfull, inflateThen_of_some _ hinflate,
      applyPredictorLazy_of_one (s := { s with work := { s.work with raw := r } }) limit hone]
    have hdelivered : s.out ++ r = r := by rw [hout, List.nil_append]
    exact ⟨_, rfl, ⟨rfl, rfl, rfl, rfl⟩, by simp [hout], .inl hdelivered⟩

theorem flateDecode_of_one (hone : parm s.inst .predictor = 1) (hinflate : inflate s.cfg s.input = some r) :
    flateDecode s = flateDecodeLazy (-1) s := by
  have hvalid := validateParms_of_legal hgeo (by simp [hone])
  rw [flateDecode_of_valid hvalid, flateDecodeLazy_unlimited hvalid, inflateThen_of_some _ hinflate,
    inflateThen_of_some _ hinflate, applyPredictor_of_one (s := { s with work := { s.work with raw := r } }) hone,
    applyPredictorLazy_of_one (s := { s with work := { s.work with raw := r } }) (-1) hone]

end

/-- What a bounded decode does depends on the decode rule in the state it starts from only. -/
theorem boundedDecode_congr {k : Kind} {full full' : State → Flow} {lazy : Int → State → Flow} {s : State}
    (h : full s = full' s) : boundedDecode k full lazy s = boundedDecode k full' lazy s := by
  simp only [boundedDecode, h]

section
variable {input r : Bytes} {s : State} (hs : Ready s) (hgeo : GeometryOk s.inst) (hinflate : inflate s.cfg input = some r)
include hs hgeo hinflate

theorem decodeFlate_delivers (hone : parm s.inst .predictor = 1) :
    ∃ t, exec (.decodeFlate input) s = .next t ∧ Delivers r input s t := by
  obtain ⟨u, hstop, hkept, rfl⟩ := (flateDecodeLazy_of_one (s := startData input (some (-1)) s) hgeo hone rfl hinflate
    (-1)).unlimited (by decide)
  rw [← flateDecode_of_one (s := startData input (some (-1)) s) hgeo hone hinflate] at hstop
  exact dataCommand_of_stop hs (by simp) hstop hkept

theorem decodelenFlate_delivers (hone : parm s.inst .predictor = 1) {n : Nat}
    (hn : fitsParamBits s.cfg.paramBits n = true) :
    ∃ t, exec (.decodelenFlate n input) s = .next t ∧ DeliversSome n r input s t := by
  obtain ⟨u, hstop, hkept, hopens, hlen⟩ := boundedDecode_of_stopsWithin (k := .flate)
    (flateDecodeLazy_of_one (s := startData input (some (n : Int)) s) hgeo hone rfl hinflate) (Int.natCast_nonneg n)
  rw [← boundedDecode_congr (flateDecode_of_one (s := startData input (some (n : Int)) s) hgeo hone hinflate)] at hstop
  obtain ⟨t, hexec, hok, hout, hrest⟩ := dataCommand_of_stop (limit := some (n : Int)) hs hn hstop hkept
  exact ⟨t, hexec, hok, hout ▸ hopens, hout ▸ hlen, hrest⟩

/-- Behind the inflation the command is the resolved Predictor value on RAW (43_flate.md R175). -/
theorem decodeFlate_eq_predictor (hpred : parm s.inst .predictor ∈ ([1, 2, 10, 11, 12, 13, 14, 15] : List Int)) :
    exec (.decodeFlate input) s =
      exec (decodePredictor (parm s.inst .predictor))
        { s with input := input, ip := 0, out := [], maxLen := -1, work := { Work.initial with raw := r } } := by
  obtain ⟨-, -, -, -, -, -, hround⟩ := Dispatch.codecRoundsRunTheDecodedSymbol
  have hrun : exec (.decodeFlate input) s = settleCommand (flateDecode (startData input (some (-1)) s)) :=
    dataCommand_of_ready hs (by simp)
  rw [hrun, flateDecode_of_valid (s := startData input (some (-1)) s) (validateParms_of_legal hgeo hpred),
    inflateThen_of_some _ hinflate, settleCommand_eq (applyPredictor_ne_more _)]
  exact hround _

/-- The trace of a buffer that is no whole number of rows (47_bounded_decode.md R247). -/
theorem trace_of_brokenRow (htwo : parm s.inst .predictor = 2) (hbroken : r.length % rowBytes s.inst ≠ 0) :
    ∃ z, WholeRowsOf (rowBytes s.inst) (parm s.inst .colors).toNat r z ∧
      traceOf .flate input s = some (z, some .predictorData) := by
  have hvalid := validateParms_of_legal hgeo (by simp [htwo])
  obtain ⟨z, t, hz, hrows, hout, hraw⟩ := tiffRows_unlimited
    (s := { startData input (some (-1)) s with work := { Work.initial with raw := r } }) hs.2 hgeo
    (leftoverEnd (rowBytes s.inst))
  have hlazy : lazyOf .flate (-1) (startData input (some (-1)) s) = .raise .predictorData t := by
    refine (flateDecodeLazy_unlimited (s := startData input (some (-1)) s) hvalid).trans ?_
    rw [inflateThen_of_some _ hinflate]
    refine (applyPredictorLazy_of_two (s := { startData input (some (-1)) s with work := { Work.initial with raw := r } })
      (-1) htwo).trans (hrows.trans (if_neg ?_))
    rw [hraw]
    exact hbroken
  refine ⟨z, hz, ?_⟩
  rw [traceOf, hlazy, Flow.trace, hout]
  rfl

omit hgeo in
/-- The trace of a buffer that is broken behind `m` chunks (47_bounded_decode.md R247). -/
theorem trace_of_brokenChunk {m : Nat} (hlow : 10 ≤ parm s.inst .predictor) (hhigh : parm s.inst .predictor ≤ 15)
    (hvalid : validateParms .flate s.inst = none) (hm : m ≤ r.length / (1 + rowBytes s.inst))
    (hlegal : ∀ q, q < m → r.getD (q * (1 + rowBytes s.inst)) 0 ≤ 4)
    (hend : m = r.length / (1 + rowBytes s.inst) → r.length % (1 + rowBytes s.inst) ≠ 0)
    (hillegal : m < r.length / (1 + rowBytes s.inst) → ¬ r.getD (m * (1 + rowBytes s.inst)) 0 ≤ 4) :
    ∃ z, PngBufferOf (rowBytes s.inst) (bytesPerPixel s.inst) (r.take (m * (1 + rowBytes s.inst))) z ∧
      traceOf .flate input s = some (z, some .predictorData) := by
  obtain ⟨t, hrows, z, cur, hz, ht⟩ := pngRows_of_fault
    (s := { startData input (some (-1)) s with work := { Work.initial with raw := r } }) hs.2 hm hlegal hend hillegal
  have hlazy : lazyOf .flate (-1) (startData input (some (-1)) s) = .raise .predictorData t := by
    refine (flateDecodeLazy_unlimited (s := startData input (some (-1)) s) hvalid).trans ?_
    rw [inflateThen_of_some _ hinflate]
    exact (applyPredictorLazy_of_png (s := { startData input (some (-1)) s with work := { Work.initial with raw := r } })
      (-1) hlow hhigh).trans hrows
  refine ⟨z, hz, ?_⟩
  rw [traceOf, hlazy, Flow.trace, ht]
  rfl

end

/-- A corrupt stream raises behind no bytes (43_flate.md R174). -/
theorem decodeFlate_of_corrupt {input : Bytes} {s : State} (hs : Ready s) (hvalid : validateParms .flate s.inst = none)
    (hinflate : inflate s.cfg input = none) :
    (∃ t, exec (.decodeFlate input) s = .next t ∧ FailsAs (.error .flateCorrupt) { s with input := input } t) ∧
      traceOf .flate input s = some ([], some .flateCorrupt) := by
  have hraise (next : State → Flow) : inflateThen next (startData input (some (-1)) s) =
      .raise .flateCorrupt (startData input (some (-1)) s) := inflateThen_of_none next hinflate
  constructor
  · exact dataCommand_of_raise hs (by simp)
      ((flateDecode_of_valid (s := startData input (some (-1)) s) hvalid).trans (hraise _)) ⟨rfl, rfl, rfl, rfl⟩
  · have hlazy : lazyOf .flate (-1) (startData input (some (-1)) s) =
        .raise .flateCorrupt (startData input (some (-1)) s) :=
      (flateDecodeLazy_unlimited (s := startData input (some (-1)) s) hvalid).trans (hraise _)
    rw [traceOf, hlazy]
    rfl

/-- Settles O46: the clauses are the decode rule behind the validation, for each answer of the primitive and each family of
Predictor values. -/
theorem flateDecodeIsInflateThenPredictor : Obligations.FlateDecodeIsInflateThenPredictor := by
  intro input n s hs hgeo hpred hn
  have hvalid := validateParms_of_legal hgeo hpred
  refine ⟨decodeFlate_of_corrupt hs hvalid, fun r hinflate => ⟨decodeFlate_eq_predictor hs hgeo hinflate hpred,
    fun hone => ⟨decodeFlate_delivers hs hgeo hinflate hone, decodelenFlate_delivers hs hgeo hinflate hone hn⟩,
    trace_of_brokenRow hs hgeo hinflate, ?png⟩⟩
  case png =>
    intro m hlow hm hlegal hend hillegal
    have hhigh : parm s.inst .predictor ≤ 15 := by
      simp only [List.mem_cons, List.not_mem_nil, or_false] at hpred
      omega
    exact trace_of_brokenChunk hs hinflate hlow hhigh hvalid hm hlegal hend fun hlt => BitVec.not_le.2 (hillegal hlt)

/-- Settles O48: ENCODE delivers the primitive's answer and keeps instance and configuration, so DECODE inflates it. -/
theorem flateRoundTrip : Obligations.FlateRoundTrip := by
  intro d s hs hgeo hone hlaw
  obtain ⟨hdeflate, -⟩ := flateEncodeIsDeflateOrRefusal d s hs hgeo
  obtain ⟨t, hexec, hdelivers⟩ := hdeflate hone
  obtain ⟨hok, hout, hinput, hinst, hcfg, hpending⟩ := hdelivers
  obtain ⟨u, hdecode, hback⟩ := decodeFlate_delivers (s := t) (input := t.out) (r := d) ⟨hinst ▸ hs.1, hcfg ▸ hs.2⟩
    (hinst ▸ hgeo) (by rw [hcfg, hout]; exact hlaw) (by rw [hinst]; exact hone)
  exact ⟨t, u, hexec, ⟨hok, rfl, hinput, hinst, hcfg, hpending⟩, hdecode, hback⟩

end Sys2Proof.Proofs.Flate
end

section
/-! The RunLength encoder (46_runlength.md R232): each round writes one well-formed packet whose content is the front of what
is still to be scanned, so what ENCODE delivers is decoded again. -/

namespace Sys2Proof.Proofs.RunLengthEncode

open Sys2Proof Sys2Proof.Machine Sys2Proof.Streams Sys2Proof.Proofs.LzwDecode Sys2Proof.Proofs.RunLengthDecode

/-! ## Runs and literals -/

theorem runLength_le (b : Byte) (rest : Bytes) : runLength (b :: rest) ≤ 128 :=
  Nat.min_le_left _ _

/-- The bytes of the run are all equal. -/
theorem take_runLength (b : Byte) (rest : Bytes) :
    (b :: rest).take (runLength (b :: rest)) = List.replicate (runLength (b :: rest)) b := by
  have hequal : rest.takeWhile (fun c => c == b) = List.replicate (rest.takeWhile fun c => c == b).length b :=
    List.eq_replicate_iff.2 ⟨rfl, fun c hc => by simpa using List.mem_takeWhile_imp hc⟩
  have hfront : (b :: rest.takeWhile fun c => c == b) <+: b :: rest := List.prefix_cons_inj b |>.2 (List.takeWhile_prefix _)
  have hle : runLength (b :: rest) ≤ (b :: rest.takeWhile fun c => c == b).length := by
    rw [runLength, List.length_cons]
    omega
  generalize runLength (b :: rest) = n at hle
  obtain ⟨more, hmore⟩ := hfront
  rw [← hmore, List.take_append_of_le_length hle]
  rw [List.length_cons] at hle
  rw [hequal, ← List.replicate_succ, List.take_replicate, Nat.min_eq_left hle]

theorem literalLength_le (cap : Nat) (l : Bytes) : literalLength cap l ≤ cap ∧ literalLength cap l ≤ l.length := by
  induction cap, l using literalLength.induct with
  | case1 | case2 => simp [literalLength]
  | case3 => simp [literalLength]
  | case4 cap b rest => simp [literalLength]
  | case5 cap a b rest hne ih =>
    simp only [literalLength, if_neg hne, List.length_cons] at ih ⊢
    omega

/-- Where no run of two begins a literal does. -/
theorem one_le_literalLength {b : Byte} {rest : Bytes} (h : runLength (b :: rest) < 2) :
    1 ≤ literalLength 128 (b :: rest) := by
  match rest with
  | [] => exact le_rfl
  | c :: rest =>
    have hne : b ≠ c := by
      rintro rfl
      simp [runLength] at h
    rw [literalLength, if_neg hne]
    exact Nat.le_add_right 1 _

/-! ## One round -/

/-- The scan is at its end. -/
theorem rlEncodeNext_at_end {s : State} (hd : s.input.drop s.work.scanI = []) :
    rlEncodeNext s = .stop (emit [0x80] s) := by
  rw [rlEncodeNext, hd]

/-- A packet for the front of what is still to be scanned. -/
structure Packs (p : RlPacket) (d rest : Bytes) : Prop where
  wf : p.wf = true
  content : d = p.content ++ rest
  short : p.code.length ≤ 2 * p.content.length

/-- Everything a round does where the scan is not at its end (46_runlength.md R232). -/
theorem rlEncodeNext_packs {s : State} {b : Byte} {rest : Bytes} (hd : s.input.drop s.work.scanI = b :: rest) :
    ∃ p rest' u, Packs p (b :: rest) rest' ∧ rlEncodeNext s = .more u ∧ Kept s u ∧ u.out = s.out ++ p.code ∧
      u.input.drop u.work.scanI = rest' := by
  have hdrop (n : Nat) : s.input.drop (s.work.scanI + n) = (b :: rest).drop n := by rw [← List.drop_drop, hd]
  simp only [rlEncodeNext, hd]
  by_cases hrun : 2 ≤ runLength (b :: rest)
  · rw [if_pos hrun]
    refine ⟨.rep (runLength (b :: rest)) b, _, _, ⟨?_, ?_, ?_⟩, rfl, ⟨rfl, rfl, rfl, rfl⟩, rfl, hdrop _⟩
    · exact decide_eq_true ⟨hrun, runLength_le b rest⟩
    · rw [RlPacket.content, ← take_runLength, List.take_append_drop]
    · simp [RlPacket.code, RlPacket.content]
      omega
  · rw [if_neg hrun]
    have hone := one_le_literalLength (Nat.lt_of_not_le hrun)
    obtain ⟨hmax, hlen⟩ := literalLength_le 128 (b :: rest)
    have htake : ((b :: rest).take (literalLength 128 (b :: rest))).length = literalLength 128 (b :: rest) :=
      List.length_take_of_le hlen
    refine ⟨.lit ((b :: rest).take (literalLength 128 (b :: rest))), _, _, ⟨?_, ?_, ?_⟩, rfl, ⟨rfl, rfl, rfl, rfl⟩, ?_,
      hdrop _⟩
    · exact decide_eq_true (by rw [htake]; exact ⟨hone, hmax⟩)
    · exact (List.take_append_drop _ _).symm
    · rw [RlPacket.code, RlPacket.content, List.length_cons, htake]
      omega
    · rw [RlPacket.code, htake]
      rfl

/-! ## The encoder -/

/-- What the encoder leaves for the bytes `d`: well-formed packets of that content behind what it had written. -/
def Packed (s : State) (d : Bytes) (u : State) (ps : List RlPacket) : Prop :=
  Kept s u ∧ (∀ p ∈ ps, p.wf = true) ∧ ps.flatMap RlPacket.content = d ∧
    u.out = s.out ++ (ps.flatMap RlPacket.code ++ [0x80]) ∧ (ps.flatMap RlPacket.code).length ≤ 2 * d.length

/-- As many rounds as there are bytes, and one for the end, write packets for all of them. -/
theorem loop_rlEncodeNext {n : Nat} {s : State} {d : Bytes} (hd : s.input.drop s.work.scanI = d) (hn : d.length < n) :
    ∃ u ps, loop (-1) rlEncodeNext Flow.more n s = .stop u ∧ Packed s d u ps := by
  induction n generalizing s d with
  | zero => omega
  | succ n ih =>
    cases d with
    | nil =>
      refine ⟨_, [], loop_end (checkBufLen_neg (by decide)) (rlEncodeNext_at_end hd) (by simp), ?_⟩
      exact ⟨⟨rfl, rfl, rfl, rfl⟩, by simp, rfl, rfl, Nat.zero_le _⟩
    | cons b rest =>
      obtain ⟨p, rest', v, ⟨hwf, hcontent, hshort⟩, hmore, hkept, hout, hrest⟩ := rlEncodeNext_packs hd
      have hpos : 1 ≤ p.content.length := by
        have hcode : 1 ≤ p.code.length := by cases p <;> exact Nat.le_add_left 1 _
        omega
      have hlen := congrArg List.length hcontent
      rw [List.length_append] at hlen
      obtain ⟨u, ps, hstop, hkept', hwf', hcontent', hout', hshort'⟩ := ih hrest (by omega)
      refine ⟨u, p :: ps, ?_, hkept.trans hkept', List.forall_mem_cons.2 ⟨hwf, hwf'⟩, ?_, ?_, ?_⟩
      · rw [loop_step (checkBufLen_neg (by decide)) hmore, hstop]
      · rw [List.flatMap_cons, hcontent', ← hcontent]
      · rw [hout', hout, List.flatMap_cons, List.append_assoc, List.append_assoc]
      · rw [List.flatMap_cons, List.length_append]
        omega

theorem rlEncode_stops {s : State} (hscan : s.work.scanI = 0) : ∃ u ps, rlEncode s = .stop u ∧ Packed s s.input u ps :=
  loop_rlEncodeNext (by rw [hscan, List.drop_zero]) (Nat.lt_succ_self _)

/-- Settles O22: the encoder's packets (`rlEncode_stops`) are what the decoder reads (`runLengthDecodesPackets`). -/
theorem runLengthRoundTrip : Obligations.RunLengthRoundTrip := by
  intro d s hs
  obtain ⟨u, ps, hstop, hkept, hwf, hcontent, hcode, hshort⟩ := rlEncode_stops (s := startData d none s) rfl
  obtain ⟨t, hexec, hok, hout, hrest⟩ := dataCommand_of_stop (body := rlEncode) hs rfl hstop hkept
  have htext : t.out = ps.flatMap RlPacket.code ++ [0x80] := hout.trans hcode
  refine ⟨t, ps, hexec, ⟨hok, rfl, hrest⟩, hwf, hcontent, htext, ?_, fun s' hs' => ?_⟩
  · rw [htext, List.length_append, List.length_singleton]
    exact Nat.succ_le_succ hshort
  · obtain ⟨v, hdecode, hall⟩ :=
      (rlDecodeLazy_of_eod (s := startData t.out (some (-1)) s') hwf htext rfl rfl rfl (-1)).unlimited (by decide)
    obtain ⟨hkept', hall⟩ := hall
    have hcopy : v.out = d := hall.trans hcontent
    exact hcopy ▸ dataCommand_of_stop hs' (by simp) hdecode hkept'

end Sys2Proof.Proofs.RunLengthEncode
end

section
/-! The round trips of the text formats (44_ascii85.md section 3, 45_asciihex.md section 3): what a text stands for is what it
was written for, digit by digit and group by group. -/

namespace Sys2Proof.Proofs.TextRoundTrip

open Sys2Proof Sys2Proof.Machine Sys2Proof.Streams Sys2Proof.Proofs.LzwDecode

/-! ## ASCIIHex -/

/-- The two characters of a byte are digits of its two nibbles (45_asciihex.md R219, 30_encoding.md R81). -/
theorem hexVal_hexChars : ∀ b : Byte,
    hexVal (hexLower (b.toNat / 16)) = some (b.extractLsb' 4 4) ∧
      hexVal (hexLower (b.toNat % 16)) = some (b.extractLsb' 0 4) ∧
        b.extractLsb' 4 4 ++ b.extractLsb' 0 4 = b := by
  decide

theorem isBody_hexText (d : Bytes) : AsciiHexDecode.IsBody (hexText d) := by
  intro ch hch
  obtain ⟨b, -, hb⟩ := List.mem_flatMap.1 hch
  obtain ⟨hhigh, hlow, -⟩ := hexVal_hexChars b
  simp only [List.mem_cons, List.not_mem_nil, or_false] at hb
  rcases hb with rfl | rfl
  · exact .inr (by simp [hhigh])
  · exact .inr (by simp [hlow])

/-- The digits of the text stand for the bytes it was written for. -/
theorem hexContent_hexText (d : Bytes) : hexContent (AsciiHexDecode.digitsOf (hexText d)) = d := by
  induction d with
  | nil => rfl
  | cons b rest ih =>
    obtain ⟨hhigh, hlow, hbyte⟩ := hexVal_hexChars b
    have hdigits : AsciiHexDecode.digitsOf (hexText (b :: rest)) =
        b.extractLsb' 4 4 :: b.extractLsb' 0 4 :: AsciiHexDecode.digitsOf (hexText rest) := by
      simp [AsciiHexDecode.digitsOf, hexText, hhigh, hlow]
    rw [hdigits, hexContent, ih, hbyte]

/-- Settles O26: the text is a body of digits (`isBody_hexText`) whose content is the input (`hexContent_hexText`). -/
theorem hexRoundTrip : Obligations.HexRoundTrip := by
  intro d s hs
  obtain ⟨t, hexec, ⟨hok, htext, hrest⟩, -⟩ := AsciiHexEncode.hexEncoderWritesLowerCase d s hs
  refine ⟨t, hexec, ⟨hok, rfl, hrest⟩, fun s' hs' => ?_⟩
  obtain ⟨u, hstop, hkept, hall⟩ := (AsciiHexDecode.hexDecodeLazy_of_eod (s := startData t.out (some (-1)) s')
    (isBody_hexText d) htext rfl rfl rfl rfl (-1)).unlimited (by decide)
  rw [hexContent_hexText] at hall
  rw [← hall]
  exact dataCommand_of_stop hs' (by simp) hstop hkept

/-! ## ASCII85: the characters of a group -/

open Sys2Proof.Proofs.Ascii85Body Sys2Proof.Proofs.Ascii85Encode

theorem a85Char_toNat {d : Nat} (h : d < 85) : (BitVec.ofNat 8 (33 + d)).toNat = 33 + d := by
  rw [BitVec.toNat_ofNat]
  omega

/-- The five digits of a word (44_ascii85.md R191). -/
def wordDigits (v : Nat) : List Nat :=
  [v / 52200625, v / 614125 % 85, v / 7225 % 85, v / 85 % 85, v % 85]

section
variable {v : Nat} (hv : v < 2 ^ 32)
include hv

theorem lt_of_mem_wordDigits {d : Nat} (hd : d ∈ wordDigits v) : d < 85 := by
  simp only [wordDigits, List.mem_cons, List.not_mem_nil, or_false] at hd
  omega

/-- The characters of a word are digits, so none of them is white space, `z` or `~` (44_ascii85.md R200). -/
theorem isA85Digit_of_mem {n : Nat} {c : Byte} (hc : c ∈ a85Characters v n) : isA85Digit c = true := by
  obtain ⟨d, hd, rfl⟩ := List.mem_map.1 hc
  have hlt := lt_of_mem_wordDigits hv (List.mem_of_mem_take hd)
  have hnat := a85Char_toNat hlt
  exact decide_eq_true ⟨BitVec.le_def.2 (hnat.symm ▸ Nat.le_add_right 33 d),
    BitVec.le_def.2 (hnat.symm ▸ show 33 + d ≤ 117 by omega)⟩

/-- Their values are the first digits of the word. -/
theorem digitValues_a85Characters (n : Nat) : digitValues (a85Characters v n) = (wordDigits v).take n := by
  rw [digitValues, a85Characters, List.map_map]
  refine (List.map_congr_left fun d hd => ?_).trans (List.map_id _)
  rw [Function.comp_apply, a85Char_toNat (lt_of_mem_wordDigits hv (List.mem_of_mem_take hd))]
  exact Nat.add_sub_cancel_left 33 d

end

theorem a85Characters_length (v : Nat) {n : Nat} (hn : n ≤ 5) : (a85Characters v n).length = n := by
  rw [a85Characters, List.length_map]
  exact List.length_take_of_le hn

/-! ## ASCII85: the number of a group -/

/-- Five digits give the word back. -/
theorem groupNumber_five {v : Nat} (hv : v < 2 ^ 32) : groupNumber (a85Characters v 5) = v := by
  rw [groupNumber, digitValues_a85Characters hv, a85Characters_length v le_rfl]
  refine (a85Value_five _ _ _ _ _).trans ?_
  unfold a85Number
  omega

/-- With fewer digits, 84 in the place of each missing one, the number is the word or a little more (44_ascii85.md R196). -/
theorem groupNumber_partial {v n : Nat} (hv : v < 2 ^ 32) (hmin : 2 ≤ n) (hmax : n ≤ 4) :
    v ≤ groupNumber (a85Characters v n) ∧ groupNumber (a85Characters v n) < v + 85 ^ (5 - n) := by
  rw [groupNumber, digitValues_a85Characters hv, a85Characters_length v (by omega)]
  obtain rfl | rfl | rfl : n = 2 ∨ n = 3 ∨ n = 4 := by omega
  · have hfive := a85Value_five (v / 52200625) (v / 614125 % 85) 84 84 84
    simp only [a85Number] at hfive
    simp only [wordDigits, List.take_succ_cons, List.take_zero, List.cons_append, List.nil_append, List.replicate]
    omega
  · have hfive := a85Value_five (v / 52200625) (v / 614125 % 85) (v / 7225 % 85) 84 84
    simp only [a85Number] at hfive
    simp only [wordDigits, List.take_succ_cons, List.take_zero, List.cons_append, List.nil_append, List.replicate]
    omega
  · have hfive := a85Value_five (v / 52200625) (v / 614125 % 85) (v / 7225 % 85) (v / 85 % 85) 84
    simp only [a85Number] at hfive
    simp only [wordDigits, List.take_succ_cons, List.take_zero, List.cons_append, List.nil_append, List.replicate]
    omega

theorem byte_of_quotient {b : Byte} {n : Nat} (h : n % 256 = b.toNat) : BitVec.ofNat 8 n = b :=
  BitVec.eq_of_toNat_eq ((BitVec.toNat_ofNat n 8).trans h)

theorem wordBytes_of_word (b0 b1 b2 b3 : Byte) : wordBytes (a85WordOf b0 b1 b2 b3) = [b0, b1, b2, b3] := by
  have h0 := b0.isLt
  have h1 := b1.isLt
  have h2 := b2.isLt
  have h3 := b3.isLt
  unfold wordBytes a85WordOf
  rw [byte_of_quotient (b := b0) (by omega), byte_of_quotient (b := b1) (by omega),
    byte_of_quotient (b := b2) (by omega), byte_of_quotient (b := b3) (by omega)]

/-! ## ASCII85: the text -/

/-- A full group of characters leads on behind its four bytes (44_ascii85.md R195, R200). -/
theorem leads_of_fourBytes (b0 b1 b2 b3 : Byte) (rest : Bytes) :
    Leads (a85Characters (a85WordOf b0 b1 b2 b3) 5 ++ rest) [b0, b1, b2, b3] rest := by
  have hv := a85WordOf_lt b0 b1 b2 b3
  have hlen := a85Characters_length (a85WordOf b0 b1 b2 b3) (le_refl 5)
  have hdigits := fun c => isA85Digit_of_mem (c := c) (n := 5) hv
  have hgroup : a85Group (a85Characters (a85WordOf b0 b1 b2 b3) 5) = some [b0, b1, b2, b3] := by
    rw [a85Group_of_digits hlen.le hdigits, groupNumber_five hv, hlen, wordBytes_of_word,
      if_pos ⟨by decide, (lt_word_iff _).1 hv⟩]
    rfl
  generalize a85Characters (a85WordOf b0 b1 b2 b3) 5 = g at hlen hdigits hgroup
  match g, hlen with
  | [c0, c1, c2, c3, c4], _ => exact leads_of_group (ne_z_of_digit (hdigits c0 (by simp))) hgroup

/-- A last group of characters stands for the bytes whose word it was written for: what the missing digits add stays below
the last byte there is (44_ascii85.md R196, R201). -/
theorem a85Content_of_lastGroup {v n : Nat} {y : Bytes} (hv : v < 2 ^ 32) (hmin : 2 ≤ n) (hmax : n ≤ 4)
    (hy : ∀ N, v ≤ N → N < v + 85 ^ (5 - n) → N ≤ maxWord ∧ (wordBytes N).take (n - 1) = y) :
    a85Content (a85Characters v n) = some y := by
  have hlen := a85Characters_length v (show n ≤ 5 by omega)
  have hne : a85Characters v n ≠ [] := by
    intro h
    rw [h, List.length_nil] at hlen
    omega
  obtain ⟨hge, hlt⟩ := groupNumber_partial hv hmin hmax
  obtain ⟨hword, hbytes⟩ := hy _ hge hlt
  obtain ⟨hcontent, -⟩ := leads_of_lastGroup ⟨hlen.trans_le hmax, fun c => isA85Digit_of_mem hv⟩ hne
    ⟨hlen.symm ▸ hmin, hword⟩
  rw [hcontent, hlen, hbytes]
  simp [a85Content]

theorem zeroByte_toNat : (0 : Byte).toNat = 0 := rfl

/-- The text stands for the bytes it was written for. -/
theorem a85Content_a85Text (d : Bytes) : a85Content (a85Text d) = some d := by
  induction d using a85Text.induct with
  | case1 b0 b1 b2 b3 rest ih =>
    have hleads : Leads (a85Text (b0 :: b1 :: b2 :: b3 :: rest)) [b0, b1, b2, b3] (a85Text rest) := by
      rw [a85Text]
      split
      · have hzero := wordBytes_of_word b0 b1 b2 b3
        rw [‹a85WordOf b0 b1 b2 b3 = 0›] at hzero
        rw [← hzero]
        exact leads_z _
      · exact leads_of_fourBytes b0 b1 b2 b3 _
    rw [hleads.1, ih]
    rfl
  | case2 b0 b1 b2 =>
    refine a85Content_of_lastGroup (a85WordOf_lt ..) (by decide) (by decide) fun N hge hlt => ?_
    have h0 := b0.isLt
    have h1 := b1.isLt
    have h2 := b2.isLt
    simp only [a85WordOf, zeroByte_toNat] at hge hlt
    refine ⟨by unfold maxWord; omega, ?_⟩
    rw [wordBytes, byte_of_quotient (b := b0) (by omega), byte_of_quotient (b := b1) (by omega),
      byte_of_quotient (b := b2) (by omega)]
    rfl
  | case3 b0 b1 =>
    refine a85Content_of_lastGroup (a85WordOf_lt ..) (by decide) (by decide) fun N hge hlt => ?_
    have h0 := b0.isLt
    have h1 := b1.isLt
    simp only [a85WordOf, zeroByte_toNat] at hge hlt
    refine ⟨by unfold maxWord; omega, ?_⟩
    rw [wordBytes, byte_of_quotient (b := b0) (by omega), byte_of_quotient (b := b1) (by omega)]
    rfl
  | case4 b0 =>
    refine a85Content_of_lastGroup (a85WordOf_lt ..) (by decide) (by decide) fun N hge hlt => ?_
    have h0 := b0.isLt
    simp only [a85WordOf, zeroByte_toNat] at hge hlt
    refine ⟨by unfold maxWord; omega, ?_⟩
    rw [wordBytes, byte_of_quotient (b := b0) (by omega)]
    rfl
  | case5 => simp [a85Text, a85Content]

/-- No character of the text is white space. -/
theorem visible_a85Text (d : Bytes) : Ascii85Decode.visible (a85Text d) = a85Text d := by
  have hchars {v : Nat} (hv : v < 2 ^ 32) (n : Nat) : ∀ c ∈ a85Characters v n, c ∉ whiteSpace :=
    fun c hc => Encoding.isA85Digit_notMem_ws (isA85Digit_of_mem hv hc)
  refine List.filter_eq_self.2 fun c hc => decide_eq_true ?_
  revert c
  induction d using a85Text.induct with
  | case1 b0 b1 b2 b3 rest ih =>
    rw [a85Text, List.forall_mem_append]
    refine ⟨?_, ih⟩
    split
    · decide
    · exact hchars (a85WordOf_lt ..) 5
  | case2 | case3 | case4 => exact hchars (a85WordOf_lt ..) _
  | case5 => simp [a85Text]

/-- Settles O32: the text holds no `~` and no white space, and stands for the input (`a85Content_a85Text`). -/
theorem ascii85RoundTrip : Obligations.Ascii85RoundTrip := by
  intro d s hs
  obtain ⟨t, hexec, ⟨hok, htext, hrest⟩, htilde⟩ := ascii85EncoderText d s hs
  have hbody : ¬ [0x7E, 0x3E] <:+: a85Text d := fun hin => htilde (hin.subset (by simp))
  refine ⟨t, hexec, ⟨hok, rfl, hrest⟩, fun s' hs' => ?_⟩
  obtain ⟨u, hstop, hkept, hall⟩ := (Ascii85Decode.a85DecodeLazy_of_content (s := startData t.out (some (-1)) s') (junk := [])
    hbody htext rfl rfl rfl ((visible_a85Text d).symm ▸ a85Content_a85Text d) (-1)).unlimited (by decide)
  rw [← hall]
  exact dataCommand_of_stop hs' (by simp) hstop hkept

end Sys2Proof.Proofs.TextRoundTrip
end

section
/-! The LZW encoder against the decoder (42_lzw.md section 2). The codes written so far lead the decoder to an `Expansion` in
which the encoder's dictionary stands, but for the key inserted last: that is the entry the decoder defines with the next
code. So every code the encoder picks names, for the decoder, the match it was picked for. -/

namespace Sys2Proof.Proofs.LzwRoundTrip

open Sys2Proof Sys2Proof.Machine Sys2Proof.Streams Sys2Proof.Proofs.Bits Sys2Proof.Proofs.LzwDecode
open Sys2Proof.Proofs.LzwExpansion Sys2Proof.Proofs.LzwExpansion.Expansion Sys2Proof.Proofs.LzwEncode

/-! ## Codes behind codes -/

theorem reads_append {e e' e'' : Expansion} {codes more : List Nat} (h : Reads e codes e') (h' : Reads e' more e'') :
    Reads e (codes ++ more) e'' := by
  induction h with
  | nil => exact h'
  | clear _ ih => exact .clear (ih h')
  | data h256 h257 hstr _ ih => exact .data h256 h257 hstr (ih h')

/-- The content is what the codes stand for. -/
theorem content_of_reads {e e' : Expansion} {codes : List Nat} (h : Reads e codes e') :
    ∃ y, lzwContent e.table e.prev codes = some y ∧ e'.content = e.content ++ y := by
  induction h with
  | nil e => exact ⟨[], rfl, (List.append_nil _).symm⟩
  | clear _ ih => exact ih
  | @data e e' c rest str h256 _ hstr _ ih =>
    obtain ⟨y, hy, hcontent⟩ := ih
    refine ⟨str ++ y, ?_, hcontent.trans (List.append_assoc ..)⟩
    rw [lzwContent_data h256 hstr]
    exact congrArg (Option.map (str ++ ·)) hy

/-- Every code there is before the 3838th place fits the width of its place. -/
theorem lt_pow_codeWidth {c n : Nat} (hc : c ≤ 256 + n) (hn : n ≤ 3837) : c < 2 ^ codeWidth n := by
  unfold codeWidth
  split_ifs <;> omega

/-- The end-of-data code fits every width. -/
theorem eod_lt_pow_codeWidth (n : Nat) : 257 < 2 ^ codeWidth n :=
  lt_of_lt_of_le (by decide) (Nat.pow_le_pow_right (by decide) (nine_le_codeWidth n))

/-! ## What has been written -/

/-- The encoder has written `codes`, which lead the decoder to `e`. -/
structure Wrote (u : State) (codes : List Nat) (e : Expansion) : Prop where
  reads : Reads start codes e
  noEod : 257 ∉ codes
  fits : lzwFits 1 codes = true
  bits : written u = lzwBits 1 codes

/-- One code more, in the width of its place. -/
theorem Wrote.snoc {u v : State} {codes : List Nat} {e e' : Expansion} {c : Nat} (h : Wrote u codes e)
    (hreads : Reads e [c] e') (h257 : c ≠ 257) (hc : c < 2 ^ e.width)
    (hbits : written v = written u ++ numberBits c e.width) : Wrote v (codes ++ [c]) e' := by
  have hplace := h.reads.lzwBits_append [c]
  have hfit := h.reads.lzwFits_append [c]
  rw [place_start] at hplace hfit
  refine ⟨reads_append h.reads hreads, ?_, ?_, ?_⟩
  · simpa using ⟨h.noEod, h257.symm⟩
  · rw [hfit, h.fits]
    exact Bool.and_eq_true_iff.2 ⟨rfl, Bool.and_eq_true_iff.2 ⟨decide_eq_true hc, rfl⟩⟩
  · rw [hbits, h.bits, hplace]
    exact congrArg (lzwBits 1 codes ++ ·) (List.append_nil _).symm

/-- Between two data codes: place and width on both sides agree, and the clear code is not yet due (42_lzw.md R158, R159). -/
structure InStep (u : State) (codes : List Nat) (e : Expansion) : Prop extends Wrote u codes e where
  place : e.place = u.work.encCount + 1
  width : u.work.encWidth = e.width
  short : u.work.encCount < u.cfg.lzwClearAfter
  legal : u.cfg.lzwClearAfter ≤ 3837

/-- The decoder's dictionary has at most as many entries as data codes were written. -/
theorem InStep.table_le {u : State} {codes : List Nat} {e : Expansion} (h : InStep u codes e) :
    e.table.length ≤ u.work.encCount := by
  have hplace := h.place
  unfold Expansion.place at hplace
  split at hplace <;> omega

/-! ## The dictionary -/

/-- The decoder has the entry, or will define it with the next code, whose string is `w`. -/
def EntryOk (e : Expansion) (w key : Bytes) (c : Nat) : Prop :=
  258 ≤ c ∧ (e.table[c - 258]? = some key ∨
    c = 258 + e.table.length ∧ ∃ p, p ≠ [] ∧ e.prev = some p ∧ key = p ++ w.take 1)

/-- The encoder's dictionary stands in the decoder's. -/
def DictOk (dict : List (Bytes × Nat)) (e : Expansion) (w : Bytes) : Prop :=
  ∀ key c, (key, c) ∈ dict → EntryOk e w key c

/-- What is due is defined by the code of `w`; what is there stays. -/
theorem getElem?_append_of_entryOk {e : Expansion} {w key : Bytes} {c : Nat} (h : EntryOk e w key c) :
    258 ≤ c ∧ (e.append w).table[c - 258]? = some key := by
  obtain ⟨hc, hentry | ⟨rfl, p, -, hprev, rfl⟩⟩ := h
  · obtain ⟨hlt, -⟩ := List.getElem?_eq_some_iff.1 hentry
    refine ⟨hc, ?_⟩
    unfold Expansion.append lzwTable
    cases e.prev with
    | none => exact hentry
    | some p => exact (List.getElem?_append_left hlt).trans hentry
  · refine ⟨hc, ?_⟩
    simp [Expansion.append, lzwTable, hprev]

theorem mem_of_lookup {dict : List (Bytes × Nat)} {w : Bytes} {c : Nat} (h : dict.lookup w = some c) : (w, c) ∈ dict := by
  obtain ⟨before, after, heq, -⟩ := List.lookup_eq_some_iff.1 h
  simp [heq]

section
variable {u : State} {codes : List Nat} {e : Expansion} {w : Bytes} {c : Nat}

/-- The code of a match names the match for the decoder (42_lzw.md R146 to R148). -/
theorem lzwString_of_code (h : InStep u codes e) (hdict : DictOk u.work.dict e w) (hw : w ≠ [])
    (hcode : lzwCodeOf u.work.dict w = some c) :
    lzwString e.table e.prev c = some w ∧ c ≠ 256 ∧ c ≠ 257 ∧ c ≤ 256 + e.place := by
  have hlen := h.table_le
  have hshort := h.short
  have hlegal := h.legal
  have hfull : e.table.length ≠ 3838 := by omega
  have hplace : e.table.length + 1 ≤ e.place := by unfold Expansion.place; split <;> omega
  unfold lzwCodeOf at hcode
  split at hcode
  next b =>
    obtain rfl : b.toNat = c := by simpa using hcode
    have hb := b.isLt
    refine ⟨?_, by omega, by omega, by omega⟩
    rw [lzwString, if_neg hfull, if_pos hb, BitVec.ofNat_toNat, BitVec.setWidth_eq]
  next =>
    obtain ⟨hc, hentry | ⟨rfl, p, hp, hprev, hkey⟩⟩ := hdict w c (mem_of_lookup hcode)
    · obtain ⟨hlt, -⟩ := List.getElem?_eq_some_iff.1 hentry
      refine ⟨?_, by omega, by omega, by omega⟩
      rw [lzwString, if_neg hfull, if_neg (by omega), if_pos (by omega), hentry]
    · have hplace' : e.place = e.table.length + 2 := by rw [Expansion.place, hprev]; rfl
      have hfirst : w.take 1 = p.take 1 := by
        obtain ⟨a, p', rfl⟩ := List.exists_cons_of_ne_nil hp
        rw [hkey]
        rfl
      refine ⟨?_, by omega, by omega, by omega⟩
      rw [lzwString, if_neg hfull, if_neg (by omega), if_neg (by omega), if_pos rfl, hprev, Option.map_some,
        ← hfirst, ← hkey]

end

/-! ## One emission -/

theorem encWiden_eq (w : Work) :
    encWiden w =
      { w with encWidth := if w.encWidth < 12 ∧ 2 ^ w.encWidth ≤ 257 + w.encCount + 1 then w.encWidth + 1 else w.encWidth } := by
  unfold encWiden
  split <;> rfl

/-- The state behind the data code, before the clear code. -/
def afterData (c : Nat) (u : State) : State :=
  { bitWrite c u.work.encWidth u with
    work := encWiden { (bitWrite c u.work.encWidth u).work with encCount := u.work.encCount + 1 } }

/-- The state behind the clear code. -/
def afterClear (u : State) : State :=
  { bitWrite 256 u.work.encWidth u with
    work := { (bitWrite 256 u.work.encWidth u).work with encWidth := 9, encCount := 0, dict := [] } }

/-- An emission is the data code, and the clear code where it is due (42_lzw.md R158). -/
theorem emitData_eq {u : State} {w : Bytes} {c : Nat} (hcode : lzwCodeOf u.work.dict w = some c) :
    emitData w u =
      if u.work.encCount + 1 = u.cfg.lzwClearAfter then some (afterClear (afterData c u), true)
      else some (afterData c u, false) := by
  have hcount : (afterData c u).work.encCount = u.work.encCount + 1 := by
    rw [afterData, encWiden_eq]
  have hcases : emitData w u =
      if (afterData c u).work.encCount = u.cfg.lzwClearAfter then some (afterClear (afterData c u), true)
      else some (afterData c u, false) := by
    rw [emitData, hcode]
    rfl
  rw [hcases, hcount]

section
variable (c : Nat) (u : State)

theorem afterData_work : (afterData c u).work =
    { u.work with
      bitbuf := (bitWrite c u.work.encWidth u).work.bitbuf
      encCount := u.work.encCount + 1
      encWidth := if u.work.encWidth < 12 ∧ 2 ^ u.work.encWidth ≤ 257 + (u.work.encCount + 1) + 1 then u.work.encWidth + 1
        else u.work.encWidth } :=
  encWiden_eq _

theorem written_afterData : written (afterData c u) = written u ++ numberBits c u.work.encWidth := by
  rw [← written_bitWrite, written, written, afterData_work]
  rfl

@[simp] theorem afterData_input : (afterData c u).input = u.input := rfl
@[simp] theorem afterData_ip : (afterData c u).ip = u.ip := rfl
@[simp] theorem afterData_cfg : (afterData c u).cfg = u.cfg := rfl

@[simp] theorem afterClear_input : (afterClear u).input = u.input := rfl
@[simp] theorem afterClear_ip : (afterClear u).ip = u.ip := rfl
@[simp] theorem afterClear_cfg : (afterClear u).cfg = u.cfg := rfl
@[simp] theorem afterClear_encCount : (afterClear u).work.encCount = 0 := rfl
@[simp] theorem afterClear_encWidth : (afterClear u).work.encWidth = 9 := rfl
@[simp] theorem afterClear_dict : (afterClear u).work.dict = [] := rfl

theorem written_afterClear : written (afterClear u) = written u ++ numberBits 256 u.work.encWidth :=
  written_bitWrite 256 u.work.encWidth u

end

section
variable {u : State} {codes : List Nat} {e : Expansion} {w : Bytes} {c : Nat}

/-- Behind a data code both sides know one more code. -/
theorem wrote_afterData (h : InStep u codes e) (hdict : DictOk u.work.dict e w) (hw : w ≠ [])
    (hcode : lzwCodeOf u.work.dict w = some c) :
    Wrote (afterData c u) (codes ++ [c]) (e.append w) ∧ (e.append w).place = u.work.encCount + 2 ∧
      (afterData c u).work.encWidth = (e.append w).width := by
  obtain ⟨hstr, h256, h257, hle⟩ := lzwString_of_code h hdict hw hcode
  have hplace := h.place
  have hshort := h.short
  have hlegal := h.legal
  refine ⟨?_, by rw [place_append, hplace], ?_⟩
  · exact h.toWrote.snoc (.data h256 h257 hstr (.nil _)) h257 (lt_pow_codeWidth hle (by omega))
      (h.width ▸ written_afterData c u)
  · rw [Expansion.width, place_append, codeWidth_succ, afterData_work, h.width, Expansion.width, hplace]

theorem wrote_afterClear {u : State} (h : Wrote u codes e) (hwidth : u.work.encWidth = e.width) :
    Wrote (afterClear u) (codes ++ [256]) e.clear :=
  h.snoc (.clear (.nil _)) (by decide) ((Nat.le_succ 256).trans_lt (eod_lt_pow_codeWidth _)) (hwidth ▸ written_afterClear u)

end

/-- What an emission of `w` leaves: both sides in step, and the dictionary the encoder goes on with. -/
structure Emitted (w : Bytes) (u : State) (e : Expansion) (v : State) (cleared : Bool) : Prop where
  inStep : ∃ codes' e', InStep v codes' e' ∧ e'.content = e.content ++ w ∧
    (cleared = false → e' = e.append w)
  dict : v.work.dict = if cleared then [] else u.work.dict
  count : cleared = false → v.work.encCount = u.work.encCount + 1
  input : v.input = u.input
  ip : v.ip = u.ip
  cfg : v.cfg = u.cfg

/-- The emission of a match keeps both sides in step, with and without the clear code behind it. -/
theorem emitted_of_code {u v : State} {codes : List Nat} {e : Expansion} {w : Bytes} {cleared : Bool}
    (h : InStep u codes e) (hdict : DictOk u.work.dict e w) (hw : w ≠ []) (hlegal : 1 ≤ u.cfg.lzwClearAfter)
    (hemit : emitData w u = some (v, cleared)) : Emitted w u e v cleared := by
  obtain ⟨c, hcode⟩ : ∃ c, lzwCodeOf u.work.dict w = some c := by
    cases hcode : lzwCodeOf u.work.dict w with
    | none => simp [emitData, hcode] at hemit
    | some c => exact ⟨c, rfl⟩
  obtain ⟨hwrote, hplace, hwidth⟩ := wrote_afterData h hdict hw hcode
  have hwork := afterData_work c u
  rw [emitData_eq hcode] at hemit
  split_ifs at hemit with hdue
  · obtain ⟨rfl, rfl⟩ : afterClear (afterData c u) = v ∧ true = cleared := by simpa using hemit
    have hstep : InStep (afterClear (afterData c u)) (codes ++ [c] ++ [256]) (e.append w).clear :=
      ⟨wrote_afterClear hwrote hwidth, by simp, by rw [afterClear_encWidth]; rfl, hlegal, by simpa using h.legal⟩
    exact ⟨⟨_, _, hstep, rfl, by simp⟩, by simp, by simp, by simp, by simp, by simp⟩
  · obtain ⟨rfl, rfl⟩ : afterData c u = v ∧ false = cleared := by simpa using hemit
    have hshort : u.work.encCount + 1 < u.cfg.lzwClearAfter := lt_of_le_of_ne h.short hdue
    refine ⟨⟨_, _, ⟨hwrote, ?_, hwidth, ?_, h.legal⟩, rfl, fun _ => rfl⟩, ?_, fun _ => ?_, rfl, rfl, rfl⟩
    · rw [hplace, hwork]
    · rw [hwork]
      exact hshort
    · rw [hwork]
      rfl
    · rw [hwork]

/-! ## One round -/

/-- Between two bytes: the pending match is what the codes so far leave of the bytes read, and has a code. -/
structure Encoding (d : Bytes) (u : State) : Prop where
  input : u.input = d
  inStep : ∃ codes e, InStep u codes e ∧ e.content ++ u.work.encMatch = d.take u.ip ∧
    DictOk u.work.dict e u.work.encMatch
  fresh : u.work.encMatch = [] → u.work.dict = []
  legal : 1 ≤ u.cfg.lzwClearAfter

/-- The match takes the byte in. -/
theorem encoding_lengthened {d : Bytes} {u : State} {b : Byte} (h : Encoding d u) (hbyte : u.input[u.ip]? = some b) :
    Encoding d (setMatch (u.work.encMatch ++ [b]) { u with ip := u.ip + 1 }) := by
  obtain ⟨rfl, ⟨codes, e, hstep, hcontent, hdict⟩, hfresh, hlegal⟩ := h
  obtain ⟨hlt, hget⟩ := List.getElem?_eq_some_iff.1 hbyte
  have htake : u.input.take (u.ip + 1) = u.input.take u.ip ++ [b] := by
    rw [List.take_add_one, hbyte]
    rfl
  refine ⟨rfl, ⟨codes, e, ⟨⟨hstep.reads, hstep.noEod, hstep.fits, hstep.bits⟩, hstep.place, hstep.width, hstep.short,
    hstep.legal⟩, ?_, ?_⟩, ?_, hlegal⟩
  · change e.content ++ (u.work.encMatch ++ [b]) = u.input.take (u.ip + 1)
    rw [htake, ← hcontent, List.append_assoc]
  · change DictOk u.work.dict e (u.work.encMatch ++ [b])
    cases hmatch : u.work.encMatch with
    | nil =>
      rw [hfresh hmatch]
      exact fun _ _ hmem => absurd hmem List.not_mem_nil
    | cons a rest =>
      rw [hmatch] at hdict
      exact hdict
  · intro hempty
    exact absurd hempty (List.append_ne_nil_of_right_ne_nil _ (List.cons_ne_nil _ _))

/-- The match is emitted and the byte begins the next one; without a clear code its key is the next entry. -/
theorem encoding_emitted {d : Bytes} {u v : State} {b : Byte} {cleared : Bool} (h : Encoding d u) (hbyte : u.input[u.ip]? = some b)
    (hw : u.work.encMatch ≠ [])
    (hemit : emitData u.work.encMatch { u with ip := u.ip + 1 } = some (v, cleared)) :
    Encoding d (setMatch [b] (if cleared then v else insertKey (u.work.encMatch ++ [b]) v)) := by
  obtain ⟨rfl, ⟨codes, e, hstep, hcontent, hdict⟩, -, hlegal⟩ := h
  have hstep' : InStep { u with ip := u.ip + 1 } codes e :=
    ⟨⟨hstep.reads, hstep.noEod, hstep.fits, hstep.bits⟩, hstep.place, hstep.width, hstep.short, hstep.legal⟩
  obtain ⟨⟨codes', e', hv, hcontent', hnext⟩, hdict', hcount, hinput, hip, hcfg⟩ :=
    emitted_of_code hstep' hdict hw hlegal hemit
  have hread : e'.content ++ [b] = u.input.take v.ip := by
    rw [hcontent', hcontent, hip, List.take_add_one, hbyte]
    rfl
  cases cleared with
  | true =>
    refine ⟨hinput, ⟨codes', e', ⟨⟨hv.reads, hv.noEod, hv.fits, hv.bits⟩, hv.place, hv.width, hv.short, hv.legal⟩, hread, ?_⟩,
      by simp [setMatch], hcfg ▸ hlegal⟩
    change DictOk v.work.dict e' [b]
    rw [hdict']
    exact fun _ _ hmem => absurd hmem List.not_mem_nil
  | false =>
    obtain rfl := hnext rfl
    refine ⟨hinput, ⟨codes', _, ⟨⟨hv.reads, hv.noEod, hv.fits, hv.bits⟩, hv.place, hv.width, hv.short, hv.legal⟩, hread, ?_⟩,
      by simp [setMatch], hcfg ▸ hlegal⟩
    change DictOk ((u.work.encMatch ++ [b], 257 + v.work.encCount) :: v.work.dict) (e.append u.work.encMatch) [b]
    rw [hdict']
    intro key c hmem
    rcases List.mem_cons.1 hmem with hnew | hold
    · obtain ⟨rfl, rfl⟩ : key = u.work.encMatch ++ [b] ∧ c = 257 + v.work.encCount := by simpa using hnew
      have hlen := next_append u.work.encMatch e
      rw [hstep.place] at hlen
      have hcount' : v.work.encCount = u.work.encCount + 1 := hcount rfl
      exact ⟨by omega, .inr ⟨by omega, _, hw, rfl, rfl⟩⟩
    · obtain ⟨hc, hentry⟩ := getElem?_append_of_entryOk (hdict key c hold)
      exact ⟨hc, .inl hentry⟩

theorem encoding_more {d : Bytes} {s u : State} (h : Encoding d s) (hround : lzwEncodeNext s = .more u) : Encoding d u := by
  unfold lzwEncodeNext at hround
  cases hread : inByte s with
  | none =>
    simp only [hread, lzwEncodeEnd] at hround
    split at hround
    · exact absurd hround (by simp)
    · split at hround <;> exact absurd hround (by simp)
  | some r =>
    obtain ⟨b, t⟩ := r
    obtain ⟨hbyte, rfl⟩ := inByte_eq_some.1 hread
    simp only [hread, lzwEncodeByte] at hround
    split at hround
    · obtain rfl := Flow.more.inj hround
      exact encoding_lengthened h hbyte
    next hemits =>
      split at hround
      · exact absurd hround (by simp)
      next v cleared hemit =>
        obtain rfl := Flow.more.inj hround
        exact encoding_emitted h hbyte (fun hempty => hemits (.inl hempty)) hemit

/-! ## The end of the input -/

/-- OUT holds codes for all of the input, and the end-of-data code behind them. -/
def Finished (d out : Bytes) : Prop :=
  ∃ codes, 257 ∉ codes ∧ lzwFits 1 codes = true ∧ lzwContent [] none codes = some d ∧
    lzwBits 1 (codes ++ [257]) <+: bitsOf out

theorem finished_of_inStep {u : State} {codes : List Nat} {e : Expansion} {d : Bytes} (h : InStep u codes e)
    (hd : e.content = d) : Finished d (padBits (bitWrite 257 u.work.encWidth u)).out := by
  obtain ⟨y, hy, hcontent⟩ := content_of_reads h.reads
  obtain rfl : y = d := hcontent.symm.trans hd
  refine ⟨codes, h.noEod, h.fits, hy, ?_⟩
  have hbits := h.reads.lzwBits_append [257]
  rw [place_start] at hbits
  rw [hbits]
  have hwritten := written_prefix_padBits (bitWrite 257 u.work.encWidth u)
  rw [written_bitWrite, h.bits, h.width] at hwritten
  simpa only [lzwBits, List.append_nil, Expansion.width, h.width] using hwritten

theorem finished_of_stop {d : Bytes} {s u : State} (h : Encoding d s) (hround : lzwEncodeNext s = .stop u) :
    Finished d u.out := by
  unfold lzwEncodeNext at hround
  cases hread : inByte s with
  | some r =>
    obtain ⟨b, t⟩ := r
    simp only [hread, lzwEncodeByte] at hround
    split at hround
    · exact absurd hround (by simp)
    · split at hround <;> exact absurd hround (by simp)
  | none =>
    obtain ⟨rfl, ⟨codes, e, hstep, hcontent, hdict⟩, -, hlegal⟩ := h
    rw [List.take_of_length_le (inByte_eq_none.1 hread)] at hcontent
    simp only [hread, lzwEncodeEnd] at hround
    split at hround
    next hempty =>
      obtain rfl := Flow.stop.inj hround
      rw [hempty, List.append_nil] at hcontent
      exact finished_of_inStep hstep hcontent
    next hpending =>
      split at hround
      · exact absurd hround (by simp)
      next v cleared hemit =>
        obtain rfl := Flow.stop.inj hround
        obtain ⟨⟨codes', e', hv, hcontent', -⟩, -⟩ := emitted_of_code hstep hdict hpending hlegal hemit
        exact finished_of_inStep hv (hcontent'.trans hcontent)

/-! ## The round trip -/

/-- Behind the opening clear code both sides are in step. -/
theorem encoding_start {s : State} (hcfg : ConfigLegal s.cfg) (hout : s.out = []) (hip : s.ip = 0)
    (hwork : s.work = Work.initial) : Encoding s.input (bitWrite 256 9 s) := by
  obtain ⟨-, hmin, hmax, -⟩ := hcfg
  have hwritten : written s = [] := by rw [written, hout, hwork]; rfl
  have hwork' : (bitWrite 256 9 s).work = { Work.initial with bitbuf := (bitWrite 256 9 s).work.bitbuf } := by
    rw [← hwork]
    rfl
  refine ⟨rfl, ⟨[256], start.clear, ⟨⟨.clear (.nil _), by decide, by decide, ?_⟩, ?_, ?_, ?_, hmax⟩, ?_, ?_⟩, ?_, hmin⟩
  · rw [written_bitWrite, hwritten]
    exact (List.append_nil _).symm
  · rw [hwork']
    rfl
  · rw [hwork']
    rfl
  · rw [hwork']
    exact hmin
  · have hip' : (bitWrite 256 9 s).ip = 0 := hip
    rw [hwork', hip']
    rfl
  · rw [hwork']
    exact fun _ _ hmem => absurd hmem List.not_mem_nil
  · rw [hwork']
    exact fun _ => rfl

/-- The encoder comes to its end with codes for all of the input. -/
theorem lzwEncode_finishes {s : State} (hcfg : ConfigLegal s.cfg) (hout : s.out = []) (hip : s.ip = 0)
    (hwork : s.work = Work.initial) : ∃ u, lzwEncode s = .stop u ∧ Kept s u ∧ Finished s.input u.out := by
  obtain ⟨u, hstop, hkept, -⟩ := lzwEncode_stops (s := s) (by rw [hwork]; rfl)
  have hend : ∀ v, lzwEncode s = .stop v → Finished s.input v.out := by
    refine loop_ind (P := Encoding s.input) (Q := fun f => ∀ v, f = .stop v → Finished s.input v.out) ?_ ?_ ?_ ?_ _ _
      (encoding_start hcfg hout hip hwork)
    · intro v _ hlimit
      rw [checkBufLen_neg (by decide)] at hlimit
      exact absurd hlimit (by decide)
    · intro v _ t h
      exact absurd h (by simp)
    · exact fun v t => encoding_more
    · exact fun v hv _ t => finished_of_stop hv
  exact ⟨u, hstop, hkept, hend u hstop⟩

/-- Settles O44: what ENCODE delivers are codes for the input behind which the end-of-data code stands
(`lzwEncode_finishes`), and such codes are decoded to their content (`lzwDecode_of_content`). -/
theorem lzwRoundTrip : Obligations.LzwRoundTrip := by
  intro d s hs hcfg
  obtain ⟨u, hstop, hkept, hfinished⟩ := lzwEncode_finishes (s := startData d none s) hcfg rfl rfl rfl
  obtain ⟨t, hexec, hok, hout, hrest⟩ := dataCommand_of_stop (body := lzwEncode) hs rfl hstop hkept
  rw [← hout] at hfinished
  obtain ⟨codes, h257, hfits, hcontent, hbits⟩ := hfinished
  refine ⟨t, hexec, ⟨hok, rfl, hrest⟩, fun s' hs' hgeo hone => ?_⟩
  obtain ⟨v, hdecode, hkept', hall⟩ := lzwDecode_of_content (s := startData t.out (some (-1)) s') rfl rfl
    (validateParms_of_geometryOk hgeo (.inl hone)) hone h257 hfits hcontent hbits
  have hcopy : v.out = d := hall
  exact hcopy ▸ dataCommand_of_stop hs' (by simp) hdecode hkept'

end Sys2Proof.Proofs.LzwRoundTrip
end

section
/-! What the codecs read and write. A codec rule run on an engine reads of it the configuration but for BOUNDED_STOP, INST,
IN, ip, OUT and WORK, and writes ip, OUT and WORK, OUT by appending. Both are said at once: `graft F s` is the engine `F` with
the codec's registers of `s`, and a rule is `Uniform` when its runs on `s` and on `graft F s` end together. With `F := s` this
says what one run keeps. -/

namespace Sys2Proof.Proofs.Frame

open Sys2Proof Sys2Proof.Machine Sys2Proof.Streams Sys2Proof.Proofs.LzwExpansion Sys2Proof.Proofs.ExactBoundedDecode
open Sys2Proof.Proofs.Registry

/-! ## What a rule writes -/

/-- `u` is `s` but for ip, OUT and WORK. -/
def Writes (s u : State) : Prop :=
  u = { s with ip := u.ip, out := u.out, work := u.work }

/-- The same, OUT written by appending alone (00_scope.md R12) and the cursor moved forward alone. -/
structure Grows (s u : State) : Prop where
  writes : Writes s u
  out : s.out <+: u.out
  ip : s.ip ≤ u.ip

theorem Writes.trans {s u v : State} (h : Writes s u) (h' : Writes u v) : Writes s v :=
  Eq.trans h' (congrArg (fun t : State => { t with ip := v.ip, out := v.out, work := v.work }) h)

theorem Grows.trans {s u v : State} (h : Grows s u) (h' : Grows u v) : Grows s v :=
  ⟨h.writes.trans h'.writes, h.out.trans h'.out, h.ip.trans h'.ip⟩

theorem grows_silent (s : State) (work : Work) : Grows s { s with work := work } :=
  ⟨rfl, List.prefix_rfl, Nat.le_refl _⟩

theorem grows_move (s : State) (n : Nat) : Grows s { s with ip := s.ip + n } :=
  ⟨rfl, List.prefix_rfl, Nat.le_add_right _ _⟩

theorem grows_emit (s : State) (l : Bytes) (work : Work) : Grows s { s with out := s.out ++ l, work := work } :=
  ⟨rfl, List.prefix_append _ _, Nat.le_refl _⟩

theorem grows_emit_move (s : State) (l : Bytes) (n : Nat) (work : Work) :
    Grows s { s with ip := s.ip + n, out := s.out ++ l, work := work } :=
  ⟨rfl, List.prefix_append _ _, Nat.le_add_right _ _⟩

theorem grows_refl (s : State) : Grows s s :=
  grows_silent s s.work

theorem Writes.eq {s u : State} (h : Writes s u) : u = { s with ip := u.ip, out := u.out, work := u.work } := h

theorem Grows.cfg_eq {s u : State} (h : Grows s u) : u.cfg = s.cfg := by
  rw [h.writes.eq]

theorem Grows.inst_eq {s u : State} (h : Grows s u) : u.inst = s.inst := by
  rw [h.writes.eq]

/-! ## Two runs that end together -/

/-- The engine `F` with the registers of `s` that a codec works on, and the configuration it reads. -/
def graft (F s : State) : State :=
  { F with
    cfg := { s.cfg with boundedStop := F.cfg.boundedStop }
    input := s.input
    ip := s.ip
    out := s.out
    work := s.work }

@[simp] theorem graft_self (s : State) : graft s s = s := rfl

section
variable (F s : State)

@[simp] theorem graft_inst : (graft F s).inst = F.inst := rfl
@[simp] theorem graft_input : (graft F s).input = s.input := rfl
@[simp] theorem graft_ip : (graft F s).ip = s.ip := rfl
@[simp] theorem graft_out : (graft F s).out = s.out := rfl
@[simp] theorem graft_work : (graft F s).work = s.work := rfl

end

/-- Two runs from `s` came to the same end: the second in the state of the first on the engine `F`. A finite row capacity is
needed to exceed one; a refusal and a match without a code are ends of encoders, which `E` stands for; an error that is
always reported (47_bounded_decode.md R246) is raised where a decode begins, which `V` stands for. -/
inductive EndsTogether (E V : Prop) (F s : State) : Flow → Flow → Prop where
  | more {u : State} : Grows s u → EndsTogether E V F s (.more u) (.more (graft F u))
  | stop {u : State} : Grows s u → EndsTogether E V F s (.stop u) (.stop (graft F u))
  | raise {u : State} (e : EngineError) (hu : Grows s u)
      (he : alwaysReported e = true → V := by simp [alwaysReported]) :
      EndsTogether E V F s (.raise e u) (.raise e (graft F u))
  | refuse {u : State} (r : EngineRefusal) : E → Grows s u → EndsTogether E V F s (.refuse r u) (.refuse r (graft F u))
  | exceeds : s.cfg.maxRow ≠ none → EndsTogether E V F s .exceeds .exceeds
  | stuck : E → EndsTogether E V F s .stuck .stuck

namespace EndsTogether
variable {E V : Prop} {F s : State} {f g f' g' : Flow}

/-- Runs that begin behind `s` may be told from `s` on. -/
theorem of_grows {s' : State} (h : EndsTogether E V F s' f g) (hs : Grows s s') : EndsTogether E V F s f g := by
  cases h with
  | more hu => exact .more (hs.trans hu)
  | stop hu => exact .stop (hs.trans hu)
  | raise e hu he => exact .raise e (hs.trans hu) he
  | refuse r hE hu => exact .refuse r hE (hs.trans hu)
  | exceeds hrow => exact .exceeds (hs.cfg_eq ▸ hrow)
  | stuck hE => exact .stuck hE

theorem ite_of_not {c : Prop} [Decidable c] (hthen : EndsTogether E V F s f g) (helse : ¬ c → EndsTogether E V F s f' g') :
    EndsTogether E V F s (if c then f else f') (if c then g else g') := by
  split
  · exact hthen
  · exact helse ‹_›

/-- Two runs that take the same branch end together when the branches do: one `ite` for each test of a definition, in the
order in which it tests. -/
theorem ite {c : Prop} [Decidable c] (hthen : EndsTogether E V F s f g) (helse : EndsTogether E V F s f' g') :
    EndsTogether E V F s (if c then f else f') (if c then g else g') :=
  hthen.ite_of_not fun _ => helse

end EndsTogether

/-- The rule does the same on every engine whose INST is related by `R`: `Eq` for the rules that read parameters, anything
for the others. -/
def Uniform (E V : Prop) (R : Inst → Inst → Prop) (body : State → Flow) : Prop :=
  ∀ F s : State, R F.inst s.inst → EndsTogether E V F s (body s) (body (graft F s))

/-- A rule that reads parameters is compared on engines that carry the INST of `s`. -/
theorem uniform_of_inst {E V : Prop} {body : State → Flow}
    (h : ∀ F s : State,
      EndsTogether E V { F with inst := s.inst } s (body s) (body (graft { F with inst := s.inst } s))) :
    Uniform E V Eq body := by
  intro F s hinst
  have hF : { F with inst := s.inst } = F := by rw [← hinst]
  exact hF ▸ h F s

section
variable {E V : Prop} {R : Inst → Inst → Prop}

theorem uniform_more : Uniform E V R Flow.more :=
  fun _ s _ => .more (grows_refl s)

theorem uniform_stop : Uniform E V R Flow.stop :=
  fun _ s _ => .stop (grows_refl s)

theorem uniform_raise (e : EngineError) (he : alwaysReported e = true → V := by simp [alwaysReported]) :
    Uniform E V R (Flow.raise e) :=
  fun _ s _ => .raise e (grows_refl s) he

/-- The byte that is read is the same on every engine. -/
theorem inByte_graft (s : State) :
    (inByte s = none ∧ ∀ F, inByte (graft F s) = none) ∨
      ∃ b s', inByte s = some (b, s') ∧ (∀ F, inByte (graft F s) = some (b, graft F s')) ∧ Grows s s' := by
  cases h : inByte s with
  | none => exact .inl ⟨rfl, fun F => inByte_eq_none.2 (show s.input.length ≤ s.ip from inByte_eq_none.1 h)⟩
  | some read =>
    obtain ⟨b, s'⟩ := read
    obtain ⟨hb, rfl⟩ := inByte_eq_some.1 h
    exact .inr ⟨b, _, rfl, fun F => inByte_eq_some.2 ⟨hb, rfl⟩, grows_move s 1⟩

theorem uniform_loop {limit : Int} {body atEnd : State → Flow} (hbody : Uniform E V R body) (hend : Uniform E V R atEnd) (n : Nat) :
    Uniform E V R (loop limit body atEnd n) := by
  induction n with
  | zero => exact fun F s hR => .ite (hend F s hR) (.stop (grows_refl s))
  | succ n ih =>
    intro F s hR
    refine .ite ?_ (.stop (grows_refl s))
    have hround := hbody F s hR
    generalize body s = f, body (graft F s) = g at hround
    cases hround with
    | more hu => exact (ih F _ (hu.inst_eq ▸ hR)).of_grows hu
    | stop hu => exact .stop hu
    | raise e hu he => exact .raise e hu he
    | refuse r hE hu => exact .refuse r hE hu
    | exceeds hrow => exact .exceeds hrow
    | stuck hE => exact .stuck hE

theorem uniform_symbolLoop {limit : Int} {body : State → Flow} (hbody : Uniform E V R body) :
    Uniform E V R (symbolLoop limit body) :=
  fun F s hR => uniform_loop hbody uniform_more _ F s hR

/-! ## ASCIIHex -/

theorem uniform_hexDigit (ch : Byte) : Uniform E V R (hexDigit ch) := by
  intro F s hR
  simp only [hexDigit, graft_work]
  cases hexVal ch with
  | none => exact .raise _ (grows_refl s)
  | some v =>
    cases s.work.hi with
    | none => exact .more (grows_silent s _)
    | some h => exact .more (grows_emit s _ _)

theorem uniform_hexEod : Uniform E V R hexEod := by
  intro F s hR
  simp only [hexEod, graft_work]
  cases s.work.hi with
  | none => exact uniform_stop F s hR
  | some h => exact .stop (grows_emit s _ _)

theorem uniform_hexWs (ch : Byte) : Uniform E V R (hexWs ch) :=
  fun F s hR => .ite (uniform_more F s hR) (.raise _ (grows_refl s))

/-- What follows a byte of the input. -/
theorem uniform_hexCases (b : Byte) :
    Uniform E V R fun s => hexCases b (fun ch => hexDigit ch s) (hexEod s) (fun ch => hexWs ch s) (fun ch => hexIllegal ch s) :=
  fun F s hR =>
    .ite (uniform_hexEod F s hR) <| .ite (uniform_hexWs b F s hR) <| .ite (uniform_hexDigit b F s hR) <|
      .raise _ (grows_refl s)

theorem uniform_hexNext : Uniform E V R hexNext := by
  intro F s hR
  rcases inByte_graft s with ⟨hend, hend'⟩ | ⟨b, s', hread, hread', hs'⟩
  · simp only [hexNext, hend, hend']
    exact .raise _ (grows_refl s)
  · simp only [hexNext, hread, hread']
    exact (uniform_hexCases b F s' (hs'.inst_eq ▸ hR)).of_grows hs'

theorem uniform_hexEncode : Uniform E V R hexEncode := by
  refine uniform_symbolLoop fun F s hR => ?_
  rcases inByte_graft s with ⟨hend, hend'⟩ | ⟨b, s', hread, hread', hs'⟩
  · simp only [hexEncodeNext, hend, hend']
    exact .stop (grows_emit s _ _)
  · simp only [hexEncodeNext, hread, hread']
    exact .more (hs'.trans (grows_emit s' _ _))

/-! ## RunLength -/

theorem uniform_rlLit (len : BitVec 7) : Uniform E V R (rlLit len) := by
  intro F s hR
  simp only [rlLit, graft_input, graft_ip]
  cases memRead s.input s.ip (len.toNat + 1) with
  | none => exact .raise _ (grows_refl s)
  | some lits => exact .more (grows_emit_move s _ _ _)

theorem uniform_rlRep (len : BitVec 7) : Uniform E V R (rlRep len) := by
  intro F s hR
  refine .ite (.raise _ (grows_refl s)) ?_
  rcases inByte_graft s with ⟨hend, hend'⟩ | ⟨b, s', hread, hread', hs'⟩
  · simp only [hend, hend']
    exact .raise _ (grows_refl s)
  · simp only [hread, hread']
    exact .more (hs'.trans (grows_emit s' _ _))

/-- What follows a length byte. -/
theorem uniform_rlCases (b : Byte) :
    Uniform E V R fun s => rlCases b (fun len => rlLit len s) (rlEod s) (fun len => rlRep len s) :=
  fun F s hR => .ite (uniform_stop F s hR) <| .ite (uniform_rlLit _ F s hR) (uniform_rlRep _ F s hR)

theorem uniform_rlNext : Uniform E V R rlNext := by
  intro F s hR
  rcases inByte_graft s with ⟨hend, hend'⟩ | ⟨b, s', hread, hread', hs'⟩
  · simp only [rlNext, hend, hend']
    exact .raise _ (grows_refl s)
  · simp only [rlNext, hread, hread']
    exact (uniform_rlCases b F s' (hs'.inst_eq ▸ hR)).of_grows hs'

theorem uniform_rlEncode : Uniform E V R rlEncode := by
  refine uniform_symbolLoop fun F s hR => ?_
  simp only [rlEncodeNext, graft_input, graft_work]
  cases s.input.drop s.work.scanI with
  | nil => exact .stop (grows_emit s _ _)
  | cons b rest => exact .ite (.more (grows_emit_move s _ _ _)) (.more (grows_emit_move s _ _ _))

/-! ## ASCII85 -/

theorem uniform_a85Digit (ch : Byte) : Uniform E V R (a85Digit ch) :=
  fun F s hR =>
    .ite (.raise _ (grows_refl s)) <| .ite (.ite (.raise _ (grows_refl s)) (.more (grows_emit s _ _))) <|
      .more (grows_silent s _)

theorem uniform_a85Z : Uniform E V R a85Z :=
  fun F s hR => .ite (.more (grows_emit s _ _)) (.raise _ (grows_refl s))

theorem uniform_a85Ws (ch : Byte) : Uniform E V R (a85Ws ch) :=
  fun F s hR => .ite (uniform_more F s hR) (.raise _ (grows_refl s))

theorem uniform_a85Eod : Uniform E V R a85Eod :=
  fun F s hR =>
    .ite (uniform_stop F s hR) <| .ite (.raise _ (grows_refl s)) <| .ite (.raise _ (grows_refl s)) <|
      .stop (grows_emit s _ _)

/-- What follows a byte before the terminator. -/
theorem uniform_a85Cases (b : Byte) :
    Uniform E V R fun s => a85Cases b (fun ch => a85Digit ch s) (a85Z s) (fun ch => a85Ws ch s) (fun ch => a85Illegal ch s) :=
  fun F s hR =>
    .ite (uniform_a85Ws b F s hR) <| .ite (uniform_a85Z F s hR) <| .ite (uniform_a85Digit b F s hR) <|
      .raise _ (grows_refl s)

theorem uniform_a85Next : Uniform E True R a85Next := by
  intro F s hR
  refine .ite ((uniform_a85Eod F { s with ip := s.ip + 2 } hR).of_grows (grows_move s 2)) ?_
  rcases inByte_graft s with ⟨hend, hend'⟩ | ⟨b, s', hread, hread', hs'⟩
  · simp only [hend, hend']
    exact .raise _ (grows_refl s)
  · simp only [hread, hread']
    exact (uniform_a85Cases b F s' (hs'.inst_eq ▸ hR)).of_grows hs'

theorem uniform_a85DecodeLazy (limit : Int) : Uniform E True R (a85DecodeLazy limit) := by
  intro F s hR
  simp only [a85DecodeLazy, graft_input]
  cases findEod s.input with
  | none => exact .raise _ (grows_refl s)
  | some p =>
    exact (uniform_symbolLoop uniform_a85Next F { s with work := { s.work with eodpos := p } } hR).of_grows
      (grows_silent s _)

theorem uniform_a85Encode : Uniform E V R a85Encode := by
  refine uniform_symbolLoop fun F s hR => ?_
  simp only [a85EncodeNext, graft_input, graft_ip]
  cases memRead s.input s.ip 4 with
  | none => exact .stop (grows_emit_move s _ _ _)
  | some w => exact .more (grows_emit_move s _ _ _)

/-! ## The LZW encoder -/

theorem grows_emitData {w : Bytes} {s u : State} {cleared : Bool} (h : emitData w s = some (u, cleared)) : Grows s u := by
  cases hcode : lzwCodeOf s.work.dict w with
  | none => simp [emitData, hcode] at h
  | some c =>
    rw [LzwRoundTrip.emitData_eq hcode] at h
    split at h
    · obtain ⟨rfl, -⟩ := Prod.mk.inj (Option.some.inj h)
      exact (grows_emit s _ _).trans (grows_emit _ _ _)
    · obtain ⟨rfl, -⟩ := Prod.mk.inj (Option.some.inj h)
      exact grows_emit s _ _

theorem emitData_graft (w : Bytes) (F s : State) :
    emitData w (graft F s) = (emitData w s).map fun r => (graft F r.1, r.2) := by
  cases hcode : lzwCodeOf s.work.dict w with
  | none => simp [emitData, hcode]
  | some c =>
    have hcode' : lzwCodeOf (graft F s).work.dict w = some c := hcode
    rw [LzwRoundTrip.emitData_eq hcode, LzwRoundTrip.emitData_eq hcode']
    split
    · rw [if_pos ‹_›]
      rfl
    · rw [if_neg ‹_›]
      rfl

theorem uniform_lzwEncodeByte (b : Byte) : Uniform True V R (lzwEncodeByte b) := by
  intro F s hR
  simp only [lzwEncodeByte, graft_work, emitData_graft]
  refine .ite (.more (grows_silent s _)) ?_
  cases h : emitData s.work.encMatch s with
  | none => exact .stuck trivial
  | some r =>
    obtain ⟨u, cleared⟩ := r
    cases cleared with
    | true => exact .more ((grows_emitData h).trans (grows_silent u _))
    | false => exact .more ((grows_emitData h).trans (grows_silent u _))

theorem uniform_lzwEncodeEnd : Uniform True V R lzwEncodeEnd := by
  intro F s hR
  refine .ite (.stop ((grows_emit s _ _).trans (grows_emit _ _ _))) ?_
  simp only [graft_work, emitData_graft]
  cases h : emitData s.work.encMatch s with
  | none => exact .stuck trivial
  | some r => exact .stop ((grows_emitData h).trans ((grows_emit _ _ _).trans (grows_emit _ _ _)))

theorem uniform_lzwEncode : Uniform True V R lzwEncode := by
  intro F s hR
  have hnext : Uniform True V R lzwEncodeNext := by
    intro F s hR
    rcases inByte_graft s with ⟨hend, hend'⟩ | ⟨b, s', hread, hread', hs'⟩
    · simpa only [lzwEncodeNext, hend, hend'] using uniform_lzwEncodeEnd F s hR
    · simp only [lzwEncodeNext, hread, hread']
      exact (uniform_lzwEncodeByte b F s' (hs'.inst_eq ▸ hR)).of_grows hs'
  exact (uniform_symbolLoop hnext F (bitWrite 256 9 s) hR).of_grows (grows_emit s _ _)

end

section
variable {E V : Prop}

/-! ## Predictors -/

theorem uniform_tiffHdiff : Uniform E V Eq tiffHdiff := by
  refine uniform_of_inst fun F s => ?_
  simp only [tiffHdiff, graft_work, graft_inst]
  cases memRead s.work.raw (s.work.rowIndex * rowBytes s.inst) (rowBytes s.inst) with
  | none => exact .raise _ (grows_refl s)
  | some raw => exact .more (grows_emit s _ _)

theorem uniform_pngRow (filter : Nat → Option Bytes → Bytes → Bytes) : Uniform E V Eq (pngRow filter) := by
  refine uniform_of_inst fun F s => ?_
  simp only [pngRow, graft_work, graft_inst]
  cases memRead s.work.raw (s.work.rowIndex * (1 + rowBytes s.inst) + 1) (rowBytes s.inst) with
  | none => exact .raise _ (grows_refl s)
  | some raw => exact .more (grows_emit s _ _)

theorem uniform_pngNext : Uniform E V Eq pngNext := by
  intro F s hR
  simp only [pngNext, graft_work, graft_inst, hR]
  cases s.work.raw[s.work.rowIndex * (1 + rowBytes s.inst)]? with
  | none => exact .raise _ (grows_refl s)
  | some tag =>
    exact .ite (uniform_pngRow noneRow F s hR) <| .ite (uniform_pngRow subRow F s hR) <|
      .ite (uniform_pngRow upRow F s hR) <| .ite (uniform_pngRow avgRow F s hR) <|
        .ite (uniform_pngRow paethRow F s hR) (.raise _ (grows_refl s))

theorem uniform_rowLoop (frame : Nat) (limit : Int) {body atEnd : State → Flow} (hbody : Uniform E V Eq body)
    (hend : Uniform E V Eq atEnd) : Uniform E V Eq (rowLoop frame limit body atEnd) :=
  uniform_of_inst fun F s =>
    .ite_of_not ((uniform_loop hbody hend _ { F with inst := s.inst } (startRows s) rfl).of_grows (grows_silent s _))
      fun hcap => .exceeds fun hnone => hcap (by rw [hnone]; rfl)

theorem uniform_leftoverEnd {R : Inst → Inst → Prop} (frame : Nat) : Uniform E V R (leftoverEnd frame) :=
  fun F s hR => .ite (uniform_stop F s hR) (.raise _ (grows_refl s))

theorem uniform_tiffBuffer : Uniform E V Eq tiffBuffer :=
  uniform_of_inst fun _ s =>
    .ite (uniform_rowLoop (tiffFrame s) (-1) uniform_tiffHdiff uniform_stop _ s rfl) (.raise _ (grows_refl s))

theorem uniform_pngBuffer : Uniform E V Eq pngBuffer :=
  uniform_of_inst fun F s =>
    .ite ((uniform_rowLoop (pngFrame s) (-1) uniform_pngNext uniform_stop { F with inst := s.inst } (startChunks s) rfl).of_grows
      (grows_silent s _)) (.raise _ (grows_refl s))

theorem uniform_tiffRows (limit : Int) {atEnd : State → Flow} (hend : Uniform E V Eq atEnd) :
    Uniform E V Eq (tiffRows limit atEnd) :=
  uniform_of_inst fun _ s => uniform_rowLoop (tiffFrame s) limit uniform_tiffHdiff hend _ s rfl

theorem uniform_pngRows (limit : Int) : Uniform E V Eq (pngRows limit) :=
  uniform_of_inst fun F s =>
    (uniform_rowLoop (pngFrame s) limit uniform_pngNext (uniform_leftoverEnd _) { F with inst := s.inst } (startChunks s)
      rfl).of_grows (grows_silent s _)

theorem uniform_predNone {R : Inst → Inst → Prop} : Uniform E V R predNone :=
  fun _ s _ => .stop (grows_emit s _ _)

theorem uniform_applyPredictor : Uniform E True Eq applyPredictor :=
  uniform_of_inst fun F s =>
    have hpng := uniform_pngBuffer { F with inst := s.inst } s rfl
    .ite (.stop (grows_emit s _ _)) <| .ite (uniform_tiffBuffer _ s rfl) <| .ite hpng <| .ite hpng <| .ite hpng <|
      .ite hpng <| .ite hpng <| .ite hpng (.raise _ (grows_refl s))

theorem uniform_applyPredictorLazy (limit : Int) : Uniform E True Eq (applyPredictorLazy limit) :=
  uniform_of_inst fun F s =>
    have hpng := uniform_pngRows limit { F with inst := s.inst } s rfl
    .ite (.stop (grows_emit s _ _)) <| .ite (uniform_tiffRows limit (uniform_leftoverEnd _) _ s rfl) <| .ite hpng <|
      .ite hpng <| .ite hpng <| .ite hpng <| .ite hpng <| .ite hpng (.raise _ (grows_refl s))

/-! ## Flate -/

theorem uniform_inflateThen {R : Inst → Inst → Prop} {next : State → Flow} (hnext : Uniform E V R next) :
    Uniform E V R (inflateThen next) := by
  intro F s hR
  have hgraft : inflate (graft F s).cfg (graft F s).input = inflate s.cfg s.input := rfl
  simp only [inflateThen, hgraft]
  cases inflate s.cfg s.input with
  | none => exact .raise _ (grows_refl s)
  | some raw =>
    exact (hnext F { s with work := { s.work with raw := raw } } hR).of_grows (grows_silent s _)

theorem uniform_flateDecode : Uniform E True Eq flateDecode := by
  intro F s hR
  simp only [flateDecode, graft_inst, hR]
  cases validateParms .flate s.inst with
  | some e => exact .raise e (grows_refl s) fun _ => trivial
  | none => exact uniform_inflateThen uniform_applyPredictor F s hR

theorem uniform_flateDecodeLazy (limit : Int) : Uniform E True Eq (flateDecodeLazy limit) := by
  intro F s hR
  simp only [flateDecodeLazy, graft_inst, hR]
  cases validateParms .flate s.inst with
  | some e => exact .raise e (grows_refl s) fun _ => trivial
  | none =>
    exact .ite (uniform_stop F s hR) (uniform_inflateThen (uniform_applyPredictorLazy limit) F s hR)

theorem uniform_flateEncode : Uniform True True Eq flateEncode := by
  intro F s hR
  simp only [flateEncode, graft_inst, hR]
  cases validateParms .flate s.inst with
  | some e => exact .raise e (grows_refl s) fun _ => trivial
  | none => exact .ite (.refuse _ trivial (grows_refl s)) (.stop (grows_emit s _ _))

/-! ## The LZW decoder -/

theorem grows_lzwEmit (str : Bytes) (s : State) : Grows s (lzwEmit str s) := by
  unfold lzwEmit
  split
  · exact grows_emit s _ _
  · exact grows_silent s _

theorem lzwEmit_graft (str : Bytes) {F s : State} (hinst : F.inst = s.inst) :
    lzwEmit str (graft F s) = graft F (lzwEmit str s) := by
  by_cases hone : parm s.inst .predictor = 1
  · rw [lzwEmit_of_one hone, lzwEmit_of_one (s := graft F s) (hinst ▸ hone)]
    rfl
  · rw [lzwEmit_of_ne_one hone, lzwEmit_of_ne_one (s := graft F s) (hinst ▸ hone)]
    rfl

theorem uniform_lzwData (str : Bytes) : Uniform E V Eq (lzwData str) := by
  intro F s hR
  refine .ite (.raise _ (grows_refl s)) ?_
  simp only [lzwEmit_graft str hR]
  exact .more ((grows_lzwEmit str s).trans (grows_silent _ _))

theorem uniform_lzwRef (code : BitVec 12) : Uniform E V Eq (lzwRef code) := by
  intro F s hR
  simp only [lzwRef, graft_work]
  cases tableEntry s.work code.toNat with
  | none => exact .raise _ (grows_refl s)
  | some str => exact uniform_lzwData str F s hR

theorem uniform_lzwKwkwk (code : BitVec 12) : Uniform E V Eq (lzwKwkwk code) := by
  intro F s hR
  simp only [lzwKwkwk, graft_work]
  cases s.work.prev with
  | none => exact .raise _ (grows_refl s)
  | some p => exact .ite (uniform_lzwData _ F s hR) (.raise _ (grows_refl s))

theorem uniform_lzwClear {R : Inst → Inst → Prop} : Uniform E V R lzwClear :=
  fun _ s _ => .more (grows_silent s _)

theorem uniform_lzwEod : Uniform E V Eq lzwEod :=
  uniform_of_inst fun _ s => .ite (.stop (grows_refl s)) (uniform_tiffBuffer _ s rfl)

theorem uniform_lzwNext {atEod : State → Flow} (hend : Uniform E V Eq atEod) : Uniform E V Eq (lzwNext atEod) := by
  intro F s hR
  simp only [lzwNext, graft_input, graft_work]
  cases bitRead s.input s.work.bp s.work.width with
  | none => exact .raise _ (grows_refl s)
  | some c =>
    refine .of_grows (s' := { s with work := { s.work with bp := s.work.bp + s.work.width } }) ?_ (grows_silent s _)
    exact .ite (uniform_lzwClear F _ hR) <| .ite (hend F _ hR) <| .ite (.raise _ (grows_refl _)) <|
      .ite (uniform_lzwData _ F _ hR) <| .ite (uniform_lzwRef _ F _ hR) <| .ite (uniform_lzwKwkwk _ F _ hR) <|
        .raise _ (grows_refl _)

theorem uniform_lzwDecode : Uniform E True Eq lzwDecode := by
  intro F s hR
  simp only [lzwDecode, graft_inst, hR]
  cases validateParms .lzw s.inst with
  | some e => exact .raise e (grows_refl s) fun _ => trivial
  | none => exact uniform_symbolLoop (uniform_lzwNext uniform_lzwEod) F s hR

/-- Behind the validation the trace raises no error that is always reported. -/
theorem endsTogether_lzwDecodeLazy (limit : Int) {F s : State} (hR : F.inst = s.inst)
    (hV : validateParms .lzw s.inst ≠ none → V) :
    EndsTogether E V F s (lzwDecodeLazy limit s) (lzwDecodeLazy limit (graft F s)) := by
  simp only [lzwDecodeLazy, graft_inst, hR]
  cases hvalid : validateParms .lzw s.inst with
  | some e => exact .raise e (grows_refl s) fun _ => hV (by simp [hvalid])
  | none =>
    refine .ite (uniform_symbolLoop (uniform_lzwNext uniform_stop) F s hR) <| .ite (uniform_stop F s hR) ?_
    have hloop := uniform_symbolLoop (E := E) (V := V) (limit := -1) (uniform_lzwNext uniform_stop) F s hR
    generalize symbolLoop (-1) (lzwNext Flow.stop) s = f, symbolLoop (-1) (lzwNext Flow.stop) (graft F s) = g at hloop
    cases hloop with
    | more hu => exact .more hu
    | @stop u hu =>
      have hinst : F.inst = u.inst := hu.inst_eq ▸ hR
      have hframe : tiffFrame (graft F u) = tiffFrame u := congrArg rowBytes hinst
      simp only [hframe]
      exact (uniform_tiffRows limit (uniform_leftoverEnd _) F u hinst).of_grows hu
    | @raise u e hu he => exact (uniform_tiffRows limit (uniform_raise e he) F u (hu.inst_eq ▸ hR)).of_grows hu
    | refuse r hE hu => exact .refuse r hE hu
    | exceeds hrow => exact .exceeds hrow
    | stuck hE => exact .stuck hE

theorem uniform_lzwDecodeLazy (limit : Int) : Uniform E True Eq (lzwDecodeLazy limit) :=
  fun _ _ hR => endsTogether_lzwDecodeLazy limit hR fun _ => trivial

/-! ## The rules of every kind -/

theorem uniform_decodeRule (k : Kind) : Uniform E True Eq (decodeRule k) := by
  cases k with
  | ascii85 => exact uniform_a85DecodeLazy (-1)
  | asciiHex => exact uniform_symbolLoop (limit := -1) uniform_hexNext
  | runLength => exact uniform_symbolLoop (limit := -1) uniform_rlNext
  | lzw => exact uniform_lzwDecode
  | flate => exact uniform_flateDecode

theorem uniform_lazyOf (k : Kind) (limit : Int) : Uniform E True Eq (lazyOf k limit) := by
  cases k with
  | ascii85 => exact uniform_a85DecodeLazy limit
  | asciiHex => exact uniform_symbolLoop uniform_hexNext
  | runLength => exact uniform_symbolLoop uniform_rlNext
  | lzw => exact uniform_lzwDecodeLazy limit
  | flate => exact uniform_flateDecodeLazy limit

theorem uniform_encodeRule (k : Kind) : Uniform True True Eq (encodeRule k) := by
  cases k with
  | ascii85 => exact uniform_a85Encode
  | asciiHex => exact uniform_hexEncode
  | runLength => exact uniform_rlEncode
  | lzw => exact uniform_lzwEncode
  | flate => exact uniform_flateEncode

end

end Sys2Proof.Proofs.Frame
end

section
/-! What commands and symbols do to the registers (10_state.md R20 to R29, 20_memory.md R58, 60_exceptions.md R269,
70_reset_and_hazards.md R284): read off from the rules of `Frame`, on one engine or on two. -/

namespace Sys2Proof.Proofs.Commands

open Sys2Proof Sys2Proof.Machine Sys2Proof.Streams Sys2Proof.Proofs.Frame Sys2Proof.Proofs.Registry
open Sys2Proof.Proofs.ExactBoundedDecode Sys2Proof.Proofs.Parameters

/-! ## Data commands on two engines -/

/-- A rule that has emitted nothing may have its bytes cut. -/
theorem grows_cut {s u : State} (h : Grows s u) (hs : s.out = []) (l : Bytes) : Grows s { u with out := l } := by
  have hcut := congrArg (fun t : State => { t with out := l }) h.writes.eq
  exact ⟨hcut, hs ▸ List.nil_prefix, h.ip⟩

section
variable {E V : Prop} {F s : State} {f g : Flow} (h : EndsTogether E V F s f g) (hs : s.out = [])
include h hs

theorem endsTogether_cutExact (n : Nat) : EndsTogether E V F s (cutExact n f) (cutExact n g) := by
  cases h with
  | more hu => exact .more hu
  | stop hu => exact .stop (grows_cut hu hs _)
  | raise e hu he => exact .raise e hu he
  | refuse r hE hu => exact .refuse r hE hu
  | exceeds hrow => exact .exceeds hrow
  | stuck hE => exact .stuck hE

theorem endsTogether_cutChosen (n : Nat) (c : Option Nat) : EndsTogether E V F s (cutChosen n c f) (cutChosen n c g) := by
  cases h with
  | more hu => exact .more hu
  | stop hu => exact .stop (grows_cut hu hs _)
  | raise e hu he =>
    cases c with
    | none => exact .raise e hu he
    | some l => exact .ite (.stop (grows_cut hu hs _)) (.raise e hu he)
  | refuse r hE hu => exact .refuse r hE hu
  | exceeds hrow => exact .exceeds hrow
  | stuck hE => exact .stuck hE

end

/-- A data command whose rule ends together on two engines with the same configuration, their INST related by `R`. -/
def Alike (E : Prop) (R : Inst → Inst → Prop) (input : Bytes) (limit : Option Int) (body : State → Flow) : Prop :=
  ∀ s s' : State, R s'.inst s.inst → s'.cfg = s.cfg →
    EndsTogether E True (startData input limit s') (startData input limit s) (body (startData input limit s))
      (body (startData input limit s'))

/-- A command's start leaves nothing of the engine but what a graft takes from it. -/
theorem graft_startData {s s' : State} (input : Bytes) (limit : Option Int) (hcfg : s'.cfg = s.cfg) :
    graft (startData input limit s') (startData input limit s) = startData input limit s' := by
  have hgraft : graft (startData input limit s') (startData input limit s) =
      { startData input limit s' with cfg := { s.cfg with boundedStop := s'.cfg.boundedStop } } := rfl
  rw [hgraft, ← hcfg]
  rfl

section
variable {E : Prop} {R : Inst → Inst → Prop} {input : Bytes} {body : State → Flow}

theorem alike_of_uniform (h : Uniform E True R body) (limit : Option Int) : Alike E R input limit body := by
  intro s s' hR hcfg
  have htogether := h (startData input limit s') (startData input limit s) hR
  rwa [graft_startData input limit hcfg] at htogether

/-- DECODELEN depends on MAXLEN, BOUNDED_STOP and the case besides, which are the command's own. -/
theorem alike_boundedDecode {k : Kind} {full : State → Flow} {lazy : Int → State → Flow} (hfull : Uniform E True R full)
    (hlazy : ∀ limit, Uniform E True R (lazy limit))
    (hcase : ∀ s s' : State, R s'.inst s.inst → s'.input = s.input → s'.maxLen = s.maxLen → stopCase k s' = stopCase k s)
    (n : Int) : Alike E R input (some n) (boundedDecode k full lazy) := by
  intro s s' hR hcfg
  have hfull' := alike_of_uniform (input := input) hfull (some n) s s' hR hcfg
  have hlazy' := fun limit => alike_of_uniform (input := input) (hlazy limit) (some n) s s' hR hcfg
  have hcase' := hcase (startData input (some n) s) (startData input (some n) s') hR rfl rfl
  simp only [boundedDecode, startData_maxLen, startData_cfg, Option.getD_some, hcfg, hcase']
  refine .ite hfull' ?_
  cases s.cfg.boundedStop with
  | exact => exact endsTogether_cutExact hfull' rfl _
  | lazy => exact hlazy' n
  | choose known => exact endsTogether_cutChosen (hlazy' (-1)) rfl _ _

end

theorem stopCase_eq_of_inst (k : Kind) {s s' : State} (hinst : s'.inst = s.inst) (hinput : s'.input = s.input)
    (hmax : s'.maxLen = s.maxLen) : stopCase k s' = stopCase k s := by
  simp only [stopCase, hinst, hinput, hmax]

/-! ## How a data command ends -/

/-- What a data command leaves of `s`, and of `s'` when it runs there too. -/
inductive EndedAlike (E : Prop) (input : Bytes) (limit : Option Int) (s s' : State) : State → State → Prop where
  | refusedAtOnce (r : EngineRefusal) : EndedAlike E input limit s s' (endRefusal r s) (endRefusal r s')
  | ok {u : State} : Grows (startData input limit s) u →
    EndedAlike E input limit s s' (endOk u) (endOk (graft (startData input limit s') u))
  | failed {u : State} (e : EngineError) : Grows (startData input limit s) u →
    EndedAlike E input limit s s' (endError e u) (endError e (graft (startData input limit s') u))
  | refused {u : State} (r : EngineRefusal) : E → Grows (startData input limit s) u →
    EndedAlike E input limit s s' (endRefusal r u) (endRefusal r (graft (startData input limit s') u))

theorem dataCommand_alike {E : Prop} {R : Inst → Inst → Prop} {input : Bytes} {limit : Option Int} {body : State → Flow}
    {s s' t : State} (h : Alike E R input limit body) (hR : R s'.inst s.inst) (hvalid : s'.inst.valid = s.inst.valid)
    (hcfg : s'.cfg = s.cfg) (hexec : dataCommand input limit body s = .next t) :
    ∃ t', dataCommand input limit body s' = .next t' ∧ EndedAlike E input limit s s' t t' := by
  simp only [dataCommand, hvalid, hcfg] at hexec ⊢
  split_ifs at hexec ⊢ with hin hbits hnone
  · obtain rfl := Host.Outcome.next.inj hexec
    exact ⟨_, rfl, .refusedAtOnce _⟩
  · obtain rfl := Host.Outcome.next.inj hexec
    exact ⟨_, rfl, .refusedAtOnce _⟩
  · have htogether := h s s' hR hcfg
    generalize body (startData input limit s) = f, body (startData input limit s') = g at htogether hexec
    cases htogether with
    | more hu => simp [settleCommand] at hexec
    | stop hu =>
      obtain ⟨hcap, rfl⟩ := by simpa using settleCommand_next.1 hexec
      exact ⟨_, settleCommand_next.2 (.inl ⟨_, rfl, hcap, rfl⟩), .ok hu⟩
    | raise e hu =>
      obtain rfl := Host.Outcome.next.inj hexec
      exact ⟨_, rfl, .failed e hu⟩
    | refuse r hE hu =>
      obtain rfl := Host.Outcome.next.inj hexec
      exact ⟨_, rfl, .refused r hE hu⟩
    | exceeds => simp [settleCommand, settleSymbol] at hexec
    | stuck => simp [settleCommand, settleSymbol] at hexec

/-! ## The data commands of every kind -/

theorem alike_encode (k : Kind) (input : Bytes) : Alike True Eq input none (encodeRule k) :=
  alike_of_uniform (uniform_encodeRule k) none

theorem alike_decode (k : Kind) (input : Bytes) : Alike True Eq input (some (-1)) (decodeRule k) :=
  alike_of_uniform (uniform_decodeRule k) _

theorem alike_decodelen (k : Kind) (n : Int) (input : Bytes) :
    Alike True Eq input (some n) (boundedDecode k (decodeRule k) (lazyOf k)) :=
  alike_boundedDecode (uniform_decodeRule k) (uniform_lazyOf k) (fun _ _ => stopCase_eq_of_inst k) n

/-- The commands of the host (30_encoding.md R70). -/
inductive CommandForm : Instr → Prop where
  | encode (k : Kind) (input : Bytes) : CommandForm (decodeEncode k input)
  | decode (k : Kind) (input : Bytes) : CommandForm (decodeDecode k input)
  | decodelen (k : Kind) (n : Int) (input : Bytes) : CommandForm (decodeDecodelen k n input)
  | list : CommandForm .list
  | supports (name : Bytes) : CommandForm (.supports name)
  | native (k : Kind) (parms : Option ParmMap) : CommandForm (newfilterOf k parms)
  | unsupported {i : Instr} (name : Bytes) (hexec : ∀ s, exec i s = newUnsupported name s)
      (hnew : isNewfilter i = true) (hquery : isQuery i = false) : CommandForm i
  | reserved {i : Instr} (hexec : ∀ s, exec i s = badCommand s) (hquery : isQuery i = false) : CommandForm i

theorem commandForm {i : Instr} (h : isCommand i = true) : CommandForm i := by
  cases i with
  | newfilterAscii85 parms => exact .native .ascii85 parms
  | newfilterAsciihex parms => exact .native .asciiHex parms
  | newfilterRunlength parms => exact .native .runLength parms
  | newfilterLzw parms => exact .native .lzw parms
  | newfilterFlate parms => exact .native .flate parms
  | newfilterCcittfax | newfilterJbig2 | newfilterDct | newfilterJpx | newfilterUnknown =>
    exact .unsupported _ (fun _ => rfl) rfl rfl
  | encodeAscii85 input => exact .encode .ascii85 input
  | encodeAsciihex input => exact .encode .asciiHex input
  | encodeRunlength input => exact .encode .runLength input
  | encodeLzw input => exact .encode .lzw input
  | encodeFlate input => exact .encode .flate input
  | decodeAscii85 input => exact .decode .ascii85 input
  | decodeAsciihex input => exact .decode .asciiHex input
  | decodeRunlength input => exact .decode .runLength input
  | decodeLzw input => exact .decode .lzw input
  | decodeFlate input => exact .decode .flate input
  | decodelenAscii85 n input => exact .decodelen .ascii85 n input
  | decodelenAsciihex n input => exact .decodelen .asciiHex n input
  | decodelenRunlength n input => exact .decodelen .runLength n input
  | decodelenLzw n input => exact .decodelen .lzw n input
  | decodelenFlate n input => exact .decodelen .flate n input
  | list => exact .list
  | supports name => exact .supports name
  | reservedOp6_7 | reservedOp8_15 | reservedFidNonzero | reservedFid9_14 => exact .reserved (fun _ => rfl) rfl
  | _ => exact absurd h Bool.false_ne_true

/-- ENCODE, DECODE and DECODELEN depend on the configuration, INST and their operands alone. -/
def IsData (i : Instr) (input : Bytes) (limit : Option Int) : Prop :=
  ∃ body, (∀ s, exec i s = dataCommand input limit body s) ∧ Alike True Eq input limit body

theorem isData_encode (k : Kind) (input : Bytes) : IsData (decodeEncode k input) input none :=
  ⟨_, exec_decodeEncode k input, alike_encode k input⟩

theorem isData_decode (k : Kind) (input : Bytes) : IsData (decodeDecode k input) input (some (-1)) :=
  ⟨_, exec_decodeDecode k input, alike_decode k input⟩

theorem isData_decodelen (k : Kind) (n : Int) (input : Bytes) : IsData (decodeDecodelen k n input) input (some n) :=
  ⟨_, exec_decodeDecodelen k n input, alike_decodelen k n input⟩

section
variable {i : Instr} {input : Bytes} {limit : Option Int} {s s' t : State} (hi : IsData i input limit)
include hi

theorem exec_alike (hcfg : s'.cfg = s.cfg) (hinst : s'.inst = s.inst) (hexec : exec i s = .next t) :
    ∃ t', exec i s' = .next t' ∧ EndedAlike True input limit s s' t t' := by
  obtain ⟨body, hbody, halike⟩ := hi
  rw [hbody] at hexec ⊢
  exact dataCommand_alike halike hinst (by rw [hinst]) hcfg hexec

/-- What a data command keeps and writes on one engine (10_state.md R29, R40; 60_exceptions.md R269). -/
theorem exec_leaves (hexec : exec i s = .next t) :
    t.cfg = s.cfg ∧ t.pending = s.pending ∧ t.inst = s.inst ∧ (t.status ≠ .ok → t.out = []) ∧
      (t.status = .ok → t.input = input ∧ t.maxLen = limit.getD s.maxLen) := by
  obtain ⟨t', -, hended⟩ := exec_alike hi (s' := s) rfl rfl hexec
  cases hended with
  | refusedAtOnce r => exact ⟨rfl, rfl, rfl, fun _ => rfl, fun hok => absurd hok (by simp)⟩
  | ok hu =>
    rw [hu.writes.eq]
    exact ⟨rfl, rfl, rfl, fun hok => absurd rfl hok, fun _ => ⟨rfl, rfl⟩⟩
  | failed e hu =>
    rw [hu.writes.eq]
    exact ⟨rfl, rfl, rfl, fun _ => rfl, fun hok => absurd hok (by simp)⟩
  | refused r _ hu =>
    rw [hu.writes.eq]
    exact ⟨rfl, rfl, rfl, fun _ => rfl, fun hok => absurd hok (by simp)⟩

end

theorem isQuery_of_data {k : Kind} {input : Bytes} {n : Int} :
    isQuery (decodeEncode k input) = false ∧ isQuery (decodeDecode k input) = false ∧
      isQuery (decodeDecodelen k n input) = false := by
  cases k <;> exact ⟨rfl, rfl, rfl⟩

/-! ## Two engines that agree on the configuration and INST -/

/-- The observation of a command that is no query is its STATUS, and OUT where it is delivered. -/
theorem observe_eq_of_not_query {i : Instr} {t t' : State} (hi : isQuery i = false) (hstatus : t'.status = t.status)
    (hout : t'.out = t.out) : observe i t' = observe i t := by
  simp [observe, hi, hstatus, hout]

/-- The observation of a command with another result than OUT. -/
theorem observe_eq_of_result {i : Instr} {t t' : State} (hstatus : t'.status = t.status) (hout : t'.out = t.out)
    (hresult : t'.result = t.result) : observe i t' = observe i t := by
  simp [observe, hstatus, hout, hresult]

/-- The two runs of a data command are observed alike. -/
theorem data_observed_alike {i : Instr} {input : Bytes} {limit : Option Int} {s s' t : State} (hi : IsData i input limit)
    (hquery : isQuery i = false) (hcfg : s.cfg = s'.cfg) (hinst : s.inst = s'.inst) (hexec : exec i s = .next t) :
    ∃ t', exec i s' = .next t' ∧ observe i t' = observe i t ∧ t'.out = t.out ∧ t'.inst = t.inst ∧ t'.cfg = t.cfg := by
  obtain ⟨t', hexec', hended⟩ := exec_alike hi hcfg.symm hinst.symm hexec
  have ⟨hcfg₁, _, hinst₁, _⟩ := exec_leaves hi hexec
  have ⟨hcfg₂, _, hinst₂, _⟩ := exec_leaves hi hexec'
  have hsame : t'.status = t.status ∧ t'.out = t.out := by cases hended <;> exact ⟨rfl, rfl⟩
  exact ⟨t', hexec', observe_eq_of_not_query hquery hsame.1 hsame.2, hsame.2,
    hinst₂.trans (hinst.symm.trans hinst₁.symm), hcfg₂.trans (hcfg.symm.trans hcfg₁.symm)⟩

theorem exec_supports (name : Bytes) (s : State) :
    exec (.supports name) s =
      if fitsCapacity s.cfg.maxName name.length = false then .refused .capacityExceeded
      else .next (endQuery (.answer (supportsParms name)) (startCommand s)) :=
  rfl

/-- Settles O58: the data commands are `Alike` on the two engines; the others write what the configuration, INST and their
operands say. -/
theorem outcomeDependsOnInstAndCommandOnly : Obligations.OutcomeDependsOnInstAndCommandOnly := by
  intro i s s' t hi hcfg hinst hexec
  cases commandForm hi with
  | encode k input => exact data_observed_alike (isData_encode k input) (isQuery_of_data (n := 0)).1 hcfg hinst hexec
  | decode k input => exact data_observed_alike (isData_decode k input) (isQuery_of_data (n := 0)).2.1 hcfg hinst hexec
  | decodelen k n input => exact data_observed_alike (isData_decodelen k n input) isQuery_of_data.2.2 hcfg hinst hexec
  | list =>
    obtain rfl := Host.Outcome.next.inj hexec
    exact ⟨_, rfl, observe_eq_of_result rfl rfl (by simp [hcfg]), rfl, hinst.symm, hcfg.symm⟩
  | supports name =>
    rw [exec_supports] at hexec ⊢
    rw [← hcfg]
    split_ifs at hexec ⊢ with hcap
    obtain rfl := Host.Outcome.next.inj hexec
    exact ⟨_, rfl, observe_eq_of_result rfl rfl rfl, rfl, hinst.symm, hcfg.symm⟩
  | native k parms =>
    rw [exec_newfilterOf, newNative] at hexec ⊢
    rw [← hcfg, ← hinst]
    split_ifs at hexec ⊢ with hcap hfit <;> obtain rfl := Host.Outcome.next.inj hexec
    · exact ⟨_, rfl, observe_eq_of_not_query (by cases k <;> rfl) rfl rfl, rfl, hinst.symm, hcfg.symm⟩
    · exact ⟨_, rfl, observe_eq_of_not_query (by cases k <;> rfl) rfl rfl, rfl, rfl, hcfg.symm⟩
  | unsupported name hform hnew hquery =>
    rw [hform, newUnsupported] at hexec ⊢
    rw [← hcfg, ← hinst]
    split_ifs at hexec ⊢ with hcap
    obtain rfl := Host.Outcome.next.inj hexec
    exact ⟨_, rfl, observe_eq_of_not_query hquery rfl rfl, rfl, rfl, rfl⟩
  | reserved hform hquery =>
    rw [hform, badCommand] at hexec ⊢
    obtain rfl := Host.Outcome.next.inj hexec
    exact ⟨_, rfl, observe_eq_of_not_query hquery rfl rfl, rfl, hinst.symm, hcfg.symm⟩

end Sys2Proof.Proofs.Commands
end

section
/-! What the whole machine keeps (10_state.md R20 to R29, 40_registry_factory.md R105, 47_bounded_decode.md R242,
60_exceptions.md R269): the invariant, the frame of every command and symbol, and what a data command does not read. -/

namespace Sys2Proof.Proofs.WholeMachine

open Sys2Proof Sys2Proof.Machine Sys2Proof.Streams Sys2Proof.Proofs.Frame Sys2Proof.Proofs.Registry
open Sys2Proof.Proofs.ExactBoundedDecode Sys2Proof.Proofs.Parameters Sys2Proof.Proofs.Commands Sys2Proof.Proofs.LzwDecode

/-! ## What no codec of the kind reads -/

section
variable {k : Kind} (hk : k = .ascii85 ∨ k = .asciiHex ∨ k = .runLength) {R : Inst → Inst → Prop}
include hk

/-- The rules of ASCII85, ASCIIHex and RunLength are the same on every INST (40_registry_factory.md R105). -/
theorem uniform_of_parameterless :
    Uniform True True R (encodeRule k) ∧ Uniform True True R (decodeRule k) ∧ ∀ limit, Uniform True True R (lazyOf k limit) := by
  rcases hk with rfl | rfl | rfl
  · exact ⟨uniform_a85Encode, uniform_a85DecodeLazy (-1), uniform_a85DecodeLazy⟩
  · exact ⟨uniform_hexEncode, uniform_symbolLoop (limit := -1) uniform_hexNext, fun _ => uniform_symbolLoop uniform_hexNext⟩
  · exact ⟨uniform_rlEncode, uniform_symbolLoop (limit := -1) uniform_rlNext, fun _ => uniform_symbolLoop uniform_rlNext⟩

/-- Nor does the case of a bounded decode name a parameter. -/
theorem stopCase_of_parameterless {s s' : State} (hinput : s'.input = s.input) (hmax : s'.maxLen = s.maxLen) :
    stopCase k s' = stopCase k s := by
  rcases hk with rfl | rfl | rfl <;> simp only [stopCase, hinput, hmax]

end

/-- An INST with another map bit and other parameter registers. -/
def withParms (h : Bool) (p c b w : Parm) (i : Inst) : Inst :=
  { i with hasMap := h, predictor := p, colors := c, bitsPerComponent := b, columns := w }

/-- What runs alike on every INST ends in the same state, up to the registers that were replaced. -/
theorem dataCommand_withParms {input : Bytes} {limit : Option Int} {body : State → Flow} {s t : State}
    (halike : Alike True (fun _ _ => True) input limit body) (h : Bool) (p c b w : Parm)
    (hexec : dataCommand input limit body s = .next t) :
    dataCommand input limit body { s with inst := withParms h p c b w s.inst } =
      .next { t with inst := withParms h p c b w t.inst } := by
  obtain ⟨t', hexec', hended⟩ :=
    dataCommand_alike (s := s) (s' := { s with inst := withParms h p c b w s.inst }) halike trivial rfl rfl hexec
  have hgraft {u : State} (hu : Grows (startData input limit s) u) :
      graft (startData input limit { s with inst := withParms h p c b w s.inst }) u =
        { u with inst := withParms h p c b w u.inst } := by
    rw [hu.writes.eq]
    rfl
  rw [hexec']
  cases hended with
  | refusedAtOnce r => rfl
  | ok hu =>
    rw [hgraft hu]
    rfl
  | failed e hu =>
    rw [hgraft hu]
    rfl
  | refused r _ hu =>
    rw [hgraft hu]
    rfl

/-- Settles O18: these rules run alike on every INST (`uniform_of_parameterless`, `uniform_lzwEncode`). -/
theorem parameterlessCodecsReadNoParameter : Obligations.ParameterlessCodecsReadNoParameter := by
  intro k input n s t h p c b w i hi hexec
  suffices hbody : ∃ limit body, (∀ u, exec i u = dataCommand input limit body u) ∧
      Alike True (fun _ _ => True) input limit body by
    obtain ⟨limit, body, hbody, halike⟩ := hbody
    rw [hbody] at hexec ⊢
    exact dataCommand_withParms halike h p c b w hexec
  rcases hi with ⟨hk, hi⟩ | rfl
  · obtain ⟨hencode, hdecode, hlazy⟩ := uniform_of_parameterless hk (R := fun _ _ => True)
    rcases hi with rfl | rfl | rfl
    · exact ⟨_, _, exec_decodeEncode k input, alike_of_uniform hencode _⟩
    · exact ⟨_, _, exec_decodeDecode k input, alike_of_uniform hdecode _⟩
    · exact ⟨_, _, exec_decodeDecodelen k n input,
        alike_boundedDecode hdecode hlazy (fun _ _ _ => stopCase_of_parameterless hk) n⟩
  · exact ⟨_, _, fun _ => rfl, alike_of_uniform uniform_lzwEncode _⟩

/-! ## What commands keep -/

/-- What a command keeps, whatever it is and however it ends. -/
structure Leaves (i : Instr) (s t : State) : Prop where
  cfg : t.cfg = s.cfg
  pending : t.pending = s.pending
  inst : isNewfilter i = false → t.inst = s.inst
  query : isQuery i = true → t.input = s.input ∧ t.ip = s.ip ∧ t.maxLen = s.maxLen
  discarded : t.status ≠ .ok → t.out = []

theorem leaves_of_data {i : Instr} {input : Bytes} {limit : Option Int} {s t : State} (hi : IsData i input limit)
    (hquery : isQuery i = false) (hexec : exec i s = .next t) : Leaves i s t := by
  obtain ⟨hcfg, hpending, hinst, hout, -⟩ := exec_leaves hi hexec
  exact ⟨hcfg, hpending, fun _ => hinst, fun h => absurd h (by simp [hquery]), hout⟩

theorem leaves_of_command {i : Instr} {s t : State} (hi : CommandForm i) (hexec : exec i s = .next t) : Leaves i s t := by
  cases hi with
  | encode k input => exact leaves_of_data (isData_encode k input) (isQuery_of_data (n := 0)).1 hexec
  | decode k input => exact leaves_of_data (isData_decode k input) (isQuery_of_data (n := 0)).2.1 hexec
  | decodelen k n input => exact leaves_of_data (isData_decodelen k n input) isQuery_of_data.2.2 hexec
  | list =>
    obtain rfl := Host.Outcome.next.inj hexec
    exact ⟨rfl, rfl, fun _ => rfl, fun _ => ⟨rfl, rfl, rfl⟩, fun _ => rfl⟩
  | supports name =>
    rw [exec_supports] at hexec
    split_ifs at hexec
    obtain rfl := Host.Outcome.next.inj hexec
    exact ⟨rfl, rfl, fun _ => rfl, fun _ => ⟨rfl, rfl, rfl⟩, fun _ => rfl⟩
  | native k parms =>
    have hquery : isQuery (newfilterOf k parms) = false := by cases k <;> rfl
    have hnew : isNewfilter (newfilterOf k parms) = true := by cases k <;> rfl
    rw [exec_newfilterOf] at hexec
    rcases newNative_next hexec with ⟨-, rfl⟩ | ⟨-, rfl⟩ <;>
      exact ⟨rfl, rfl, fun h => absurd h (by simp [hnew]), fun h => absurd h (by simp [hquery]), fun _ => rfl⟩
  | unsupported name hform hnew hquery =>
    rw [hform] at hexec
    obtain rfl := newUnsupported_next hexec
    exact ⟨rfl, rfl, fun h => absurd h (by simp [hnew]), fun h => absurd h (by simp [hquery]), fun _ => rfl⟩
  | reserved hform hquery =>
    rw [hform] at hexec
    obtain rfl := Host.Outcome.next.inj hexec
    exact ⟨rfl, rfl, fun _ => rfl, fun h => absurd h (by simp [hquery]), fun _ => rfl⟩

/-- Settles O59: `leaves_of_command`, and `exec_leaves` for what a data command writes. -/
theorem onlyNewfilterWritesInst : Obligations.OnlyNewfilterWritesInst := by
  intro i s t hi hexec
  have hleaves := leaves_of_command (commandForm hi) hexec
  refine ⟨hleaves.cfg, hleaves.pending, hleaves.inst, hleaves.query, ?encode, ?decode, ?decodelen⟩
  case encode =>
    rintro k input rfl
    exact (exec_leaves (isData_encode k input) hexec).2.2.2.2
  case decode =>
    rintro k input rfl
    exact (exec_leaves (isData_decode k input) hexec).2.2.2.2
  case decodelen =>
    rintro k input n rfl
    exact (exec_leaves (isData_decodelen k n input) hexec).2.2.2.2

/-! ## The invariant -/

/-- Settles O55: at reset no parameter is present and STATUS is `ok`. -/
theorem invariantAtReset : Obligations.InvariantAtReset := by
  refine ⟨fun key hpresent => ?_, fun _ => rfl⟩
  cases key <;> exact absurd hpresent Bool.false_ne_true

/-- NEWFILTER leaves a present parameter only where the map has it, with a value it has tested (10_state.md R21, R22). -/
theorem instOk_constructInst {cfg : Config} {k : Kind} {parms : Option ParmMap} {old : Inst}
    (hfit : parmsFit cfg.paramBits parms = true) : InstOk cfg (constructInst k parms old) := by
  intro key hpresent
  rw [parmReg_constructInst] at hpresent ⊢
  cases hvalue : mapValue parms key with
  | none =>
    rw [storeParm_of_absent hvalue] at hpresent
    exact absurd hpresent Bool.false_ne_true
  | some v =>
    refine ⟨?_, ?_⟩
    · cases parms with
      | none => simp at hvalue
      | some m => rfl
    · rw [storeParm_of_present hvalue]
      have hall := List.all_eq_true.1 hfit key (by cases key <;> simp)
      simpa [hvalue] using hall

theorem instOk_of_command {i : Instr} {s t : State} (hi : CommandForm i) (hexec : exec i s = .next t)
    (hs : InstOk s.cfg s.inst) : InstOk t.cfg t.inst := by
  by_cases hnew : isNewfilter i = true
  · cases hi with
    | native k parms =>
      rw [exec_newfilterOf] at hexec
      rcases newNative_next hexec with ⟨-, rfl⟩ | ⟨hfit, rfl⟩
      · exact hs
      · exact instOk_constructInst hfit
    | unsupported name hform =>
      rw [hform] at hexec
      obtain rfl := newUnsupported_next hexec
      intro key
      have hkey := hs key
      cases key <;> exact hkey
    | encode k | decode k | decodelen k => cases k <;> exact absurd hnew Bool.false_ne_true
    | list | supports => exact absurd hnew Bool.false_ne_true
    | reserved hform =>
      rw [hform] at hexec
      obtain rfl := Host.Outcome.next.inj hexec
      exact hs
  · have hleaves := leaves_of_command hi hexec
    rw [hleaves.cfg, hleaves.inst (by simpa using hnew)]
    exact hs

theorem isCommand_ite {p : Prop} [Decidable p] {i j : Instr} (hi : isCommand i = true) (hj : isCommand j = true) :
    isCommand (if p then i else j) = true := by
  split
  · exact hi
  · exact hj

/-- What the host hands over is a command, never a symbol (30_encoding.md R70). -/
theorem isCommand_decodeCommand (k : Kind) (c : Command) : isCommand (decodeCommand k c) = true := by
  have hnew : isCommand (decodeNewfilter c.name c.parms) = true := by
    unfold decodeNewfilter
    split <;> rfl
  have hdata (n : Int) : isCommand (decodeEncode k c.input) = true ∧ isCommand (decodeDecode k c.input) = true ∧
      isCommand (decodeDecodelen k n c.input) = true := by
    cases k <;> exact ⟨rfl, rfl, rfl⟩
  obtain ⟨hencode, hdecode, hdecodelen⟩ := hdata c.maxLen
  simp only [decodeCommand]
  split
  case h_1 => exact isCommand_ite rfl hnew
  case h_2 => exact isCommand_ite hencode rfl
  case h_3 => exact isCommand_ite hdecode rfl
  case h_4 => exact isCommand_ite hdecodelen rfl
  case h_5 | h_6 => exact isCommand_ite rfl rfl
  case h_7 | h_8 | h_9 => rfl

/-- Settles O56: a command keeps the invariant (`instOk_of_command`, `leaves_of_command`), a reset establishes it. -/
theorem stepKeepsTheInvariant : Obligations.StepKeepsTheInvariant := by
  rintro s t ⟨hinst, hout⟩ hstep
  unfold step fetch at hstep
  cases hpending : s.pending with
  | nil =>
    simp only [hpending] at hstep
    obtain rfl := Host.Outcome.next.inj hstep
    exact ⟨hinst, hout⟩
  | cons e rest =>
    cases e with
    | reset =>
      simp only [hpending] at hstep
      obtain rfl := Host.Outcome.next.inj hstep
      refine ⟨fun key hpresent => ?_, fun _ => rfl⟩
      cases key <;> exact absurd hpresent Bool.false_ne_true
    | command c =>
      simp only [hpending] at hstep
      have hform := commandForm (isCommand_decodeCommand s.inst.kind c)
      exact ⟨instOk_of_command hform hstep hinst, (leaves_of_command hform hstep).discarded⟩

/-! ## Symbols -/

/-- A symbol settles a rule that is the same on every engine. -/
theorem exec_of_symbol {i : Instr} (h : isCommand i = false) :
    ∃ body, (∀ s, exec i s = settleSymbol (body s)) ∧ Uniform False True Eq body := by
  cases i with
  | rlLit len => exact ⟨_, fun _ => rfl, uniform_rlLit len⟩
  | rlEod => exact ⟨_, fun _ => rfl, uniform_stop⟩
  | rlRep len => exact ⟨_, fun _ => rfl, uniform_rlRep len⟩
  | pngNone => exact ⟨_, fun _ => rfl, uniform_pngRow noneRow⟩
  | pngSub => exact ⟨_, fun _ => rfl, uniform_pngRow subRow⟩
  | pngUp => exact ⟨_, fun _ => rfl, uniform_pngRow upRow⟩
  | pngAvg => exact ⟨_, fun _ => rfl, uniform_pngRow avgRow⟩
  | pngPaeth => exact ⟨_, fun _ => rfl, uniform_pngRow paethRow⟩
  | tiffHdiff => exact ⟨_, fun _ => rfl, uniform_tiffHdiff⟩
  | predNone => exact ⟨_, fun _ => rfl, uniform_predNone⟩
  | predTiff => exact ⟨_, fun _ => rfl, uniform_tiffBuffer⟩
  | predPng10 | predPng11 | predPng12 | predPng13 | predPng14 | predPng15 => exact ⟨_, fun _ => rfl, uniform_pngBuffer⟩
  | lzwLit code => exact ⟨_, fun _ => rfl, uniform_lzwData [code]⟩
  | lzwClear => exact ⟨_, fun _ => rfl, uniform_lzwClear⟩
  | lzwEod => exact ⟨_, fun _ => rfl, uniform_lzwEod⟩
  | lzwRef code => exact ⟨_, fun _ => rfl, uniform_lzwRef code⟩
  | lzwKwkwk code => exact ⟨_, fun _ => rfl, uniform_lzwKwkwk code⟩
  | a85Digit ch => exact ⟨_, fun _ => rfl, uniform_a85Digit ch⟩
  | a85Z => exact ⟨_, fun _ => rfl, uniform_a85Z⟩
  | a85Eod => exact ⟨_, fun _ => rfl, uniform_a85Eod⟩
  | a85Ws ch => exact ⟨_, fun _ => rfl, uniform_a85Ws ch⟩
  | hexDigit ch => exact ⟨_, fun _ => rfl, uniform_hexDigit ch⟩
  | hexEod => exact ⟨_, fun _ => rfl, uniform_hexEod⟩
  | hexWs ch => exact ⟨_, fun _ => rfl, uniform_hexWs ch⟩
  | pngIllegal | predUndefined | lzwIllegal | a85Illegal | hexIllegal => exact ⟨_, fun _ => rfl, uniform_raise _⟩
  | _ => exact absurd h.symm Bool.false_ne_true

/-- Settles O60: a symbol's rule grows OUT (`exec_of_symbol`), and no symbol refuses. -/
theorem symbolsAppendToOut : Obligations.SymbolsAppendToOut := by
  intro i s t hi hexec
  obtain ⟨body, hbody, huniform⟩ := exec_of_symbol hi
  rw [hbody] at hexec
  obtain ⟨g, hround⟩ : ∃ g, EndsTogether False True s s (body s) g := ⟨_, huniform s s rfl⟩
  generalize body s = f at hround hexec
  cases hround with
  | more hu =>
    obtain rfl := Host.Outcome.next.inj hexec
    exact ⟨.inl hu.out, hu.inst_eq, by rw [hu.writes.eq], hu.cfg_eq⟩
  | stop hu =>
    obtain ⟨-, rfl⟩ := by simpa using settleSymbol_next.1 hexec
    exact ⟨.inl hu.out, hu.inst_eq, by rw [hu.writes.eq]; rfl, hu.cfg_eq⟩
  | raise e hu =>
    obtain rfl := Host.Outcome.next.inj hexec
    exact ⟨.inr ⟨rfl, e, rfl⟩, hu.inst_eq, by rw [hu.writes.eq]; rfl, hu.cfg_eq⟩
  | refuse r hE => exact hE.elim
  | exceeds => simp [settleSymbol] at hexec
  | stuck hE => exact hE.elim

/-! ## Negative limits -/

/-- The two ends of runs that differ in MAXLEN differ in it alone. -/
theorem settleCommand_withMaxLen {m : Int} {s t : State} {f g : Flow} (h : EndsAlike m s f g)
    (hf : settleCommand f = .next t) : ∃ u, settleCommand g = .next u ∧ { u with maxLen := t.maxLen } = t := by
  cases h with
  | more hu => simp [settleCommand] at hf
  | stop hu =>
    obtain ⟨hcap, rfl⟩ := by simpa using settleCommand_next.1 hf
    exact ⟨_, settleCommand_next.2 (.inl ⟨_, rfl, hcap, rfl⟩), rfl⟩
  | raise e hu =>
    obtain rfl := Host.Outcome.next.inj hf
    exact ⟨_, rfl, rfl⟩
  | refuse r hu =>
    obtain rfl := Host.Outcome.next.inj hf
    exact ⟨_, rfl, rfl⟩
  | exceeds => simp [settleCommand, settleSymbol] at hf
  | stuck => simp [settleCommand, settleSymbol] at hf

/-- Settles O50: a negative MAXLEN runs the decode rule (`boundedDecode_neg`), which does not read MAXLEN
(`blind_decodeRule`). -/
theorem negativeLimitsDecodeEverything : Obligations.NegativeLimitsDecodeEverything := by
  intro k input n s hneg hs hfit
  have hrun (m : Int) (hm : m < 0) (hfit : fitsParamBits s.cfg.paramBits m = true) :
      exec (decodeDecodelen k m input) s = settleCommand (decodeRule k (startData input (some m) s)) := by
    rw [exec_decodeDecodelen, dataCommand_of_ready (limit := some m) hs hfit, boundedDecode_neg (s := startData input (some m) s) hm]
  have hdecode : exec (decodeDecode k input) s = settleCommand (decodeRule k (startData input (some (-1)) s)) := by
    rw [exec_decodeDecode, dataCommand_of_ready hs (by simp)]
  refine ⟨(hrun (-1) (by decide) (by simp)).trans hdecode.symm, fun t ht => ?_⟩
  rw [hrun n hneg hfit]
  exact settleCommand_withMaxLen (blind_decodeRule k n (startData input (some (-1)) s)) (hdecode ▸ ht)

end Sys2Proof.Proofs.WholeMachine
end

section
/-! Every command terminates (70_reset_and_hazards.md section 3). The loops over the text formats consume a byte in every
round, the LZW loop nine bits; so none runs out of rounds, and without finite capacities a decode ends `ok` or in an error. -/

namespace Sys2Proof.Proofs.Termination

open Sys2Proof Sys2Proof.Machine Sys2Proof.Streams Sys2Proof.Proofs.Frame Sys2Proof.Proofs.Registry
open Sys2Proof.Proofs.ExactBoundedDecode Sys2Proof.Proofs.Commands Sys2Proof.Proofs.LzwDecode
open Sys2Proof.Proofs.LzwExpansion Sys2Proof.Proofs.Flate

/-! ## The text formats -/

/-- The input that is still to be read. -/
def unread (s : State) : Nat := s.input.length - s.ip

/-- What goes on behind a byte has less to read. -/
theorem unread_lt_of_byte {s s' u : State} {b : Byte} {rest : State → Flow} (hread : inByte s = some (b, s'))
    (hrest : Uniform False True Eq rest) (hmore : rest s' = .more u) : unread u < unread s := by
  obtain ⟨hbyte, rfl⟩ := inByte_eq_some.1 hread
  obtain ⟨hlt, -⟩ := List.getElem?_eq_some_iff.1 hbyte
  obtain ⟨g, htogether⟩ : ∃ g, EndsTogether False True { s with ip := s.ip + 1 } { s with ip := s.ip + 1 } (rest _) g :=
    ⟨_, hrest _ { s with ip := s.ip + 1 } rfl⟩
  rw [hmore] at htogether
  cases htogether with
  | more hu =>
    have hip : s.ip + 1 ≤ u.ip := hu.ip
    have hinput : u.input = s.input := by rw [hu.writes.eq]
    unfold unread
    rw [hinput]
    omega

theorem unread_lt_of_hexNext {s u : State} (h : hexNext s = .more u) : unread u < unread s := by
  unfold hexNext at h
  cases hread : inByte s with
  | none => simp [hread] at h
  | some r =>
    simp only [hread] at h
    exact unread_lt_of_byte hread (uniform_hexCases r.1) h

theorem unread_lt_of_rlNext {s u : State} (h : rlNext s = .more u) : unread u < unread s := by
  unfold rlNext at h
  cases hread : inByte s with
  | none => simp [hread] at h
  | some r =>
    simp only [hread] at h
    exact unread_lt_of_byte hread (uniform_rlCases r.1) h

/-- The terminator ends the scan. -/
theorem a85Eod_ne_more (s u : State) : a85Eod s ≠ .more u := by
  unfold a85Eod
  dsimp only
  split_ifs <;> simp

theorem unread_lt_of_a85Next {s u : State} (h : a85Next s = .more u) : unread u < unread s := by
  unfold a85Next at h
  split at h
  · exact absurd h (a85Eod_ne_more _ u)
  · cases hread : inByte s with
    | none => simp [hread] at h
    | some r =>
      simp only [hread] at h
      exact unread_lt_of_byte hread (uniform_a85Cases r.1) h

/-- A loop whose rounds read does not run out of rounds. -/
theorem symbolLoop_ne_more {body : State → Flow} (hbody : ∀ s u, body s = .more u → unread u < unread s) (limit : Int)
    (s u : State) : symbolLoop limit body s ≠ .more u :=
  loop_ends (P := fun _ => True) unread (fun s t _ h => ⟨trivial, hbody s t h⟩) _ s trivial
    (Nat.lt_succ_of_le (Nat.sub_le _ _)) u

/-! ## LZW -/

/-- A code that leads on was there, and the cursor is past it. -/
theorem lzwNext_more {s u : State} {e : Expansion} {atEod : State → Flow} (hend : ∀ u v, atEod u ≠ .more v)
    (h : lzwNext atEod (reached s e) = .more u) :
    ∃ e', u = reached s e' ∧ e'.bp = e.bp + e.width ∧ e'.bp ≤ 8 * s.input.length := by
  cases hread : bitRead s.input e.bp e.width with
  | none =>
    rw [lzwNext_cut (bitRead_eq_none.1 hread)] at h
    exact absurd h (by simp)
  | some c =>
    obtain ⟨hbits, -⟩ := bitRead_eq_some.1 hread
    by_cases h256 : c = 256
    · rw [lzwNext_clear (h256 ▸ hread)] at h
      exact ⟨e.clear, (Flow.more.inj h).symm, rfl, hbits⟩
    by_cases h257 : c = 257
    · rw [lzwNext_eod (h257 ▸ hread)] at h
      exact absurd h (hend _ u)
    cases hstr : lzwString e.table e.prev c with
    | none =>
      rw [lzwNext_illegal hread h256 h257 hstr] at h
      exact absurd h (by simp)
    | some str =>
      rw [lzwNext_data hread h256 h257 hstr] at h
      exact ⟨e.append str, (Flow.more.inj h).symm, rfl, hbits⟩

/-- Every code has nine bits at least, so there are fewer codes than bytes. -/
theorem symbolLoop_lzw_ne_more {s : State} {atEod : State → Flow} (hwork : s.work = Work.initial)
    (hend : ∀ u v, atEod u ≠ .more v) (limit : Int) (u : State) : symbolLoop limit (lzwNext atEod) s ≠ .more u := by
  refine loop_ends (P := fun t => ∃ e, t = reached s e) (fun t => (8 * s.input.length - t.work.bp) / 9) ?_ _ s
    ⟨.start, (reached_start s hwork).symm⟩ (by omega) u
  rintro _ t ⟨e, rfl⟩ hmore
  obtain ⟨e', rfl, hbp, hle⟩ := lzwNext_more hend hmore
  have hwidth : 9 ≤ e.width := Expansion.nine_le_codeWidth e.place
  have hbp₁ : (reached s e).work.bp = e.bp := rfl
  have hbp₂ : (reached s e').work.bp = e'.bp := rfl
  refine ⟨⟨e', rfl⟩, ?_⟩
  rw [hbp₁, hbp₂]
  omega

/-! ## Rows -/

theorem leftoverEnd_ne_more (frame : Nat) (s u : State) : leftoverEnd frame s ≠ .more u := by
  unfold leftoverEnd
  split <;> simp

theorem applyPredictorLazy_ne_more (limit : Int) (s u : State) : applyPredictorLazy limit s ≠ .more u :=
  predCases_ne_more (by simp [predNone]) (rowLoop_ne_more _ _ _ (leftoverEnd_ne_more _) s u)
    (rowLoop_ne_more _ _ _ (leftoverEnd_ne_more _) _ u) (by simp [predUndefined])

theorem inflateThen_ne_more {next : State → Flow} (hnext : ∀ s u, next s ≠ .more u) (s u : State) :
    inflateThen next s ≠ .more u := by
  unfold inflateThen
  split
  · simp
  · exact hnext _ u

/-! ## The rules of every kind -/

theorem lzwDecodeLazy_ne_more (limit : Int) {s : State} (hwork : s.work = Work.initial) (u : State) :
    lzwDecodeLazy limit s ≠ .more u := by
  have hloop := fun limit => symbolLoop_lzw_ne_more (atEod := Flow.stop) hwork (by simp) limit
  unfold lzwDecodeLazy
  split
  · simp
  split
  · exact hloop limit u
  split
  · simp
  split
  · exact rowLoop_ne_more _ _ _ (leftoverEnd_ne_more _) _ u
  · exact rowLoop_ne_more _ _ _ (by simp) _ u
  next hmore => exact absurd hmore (hloop (-1) _)
  · simp
  · simp
  · simp

theorem lazyOf_ne_more (k : Kind) (limit : Int) {s : State} (hwork : s.work = Work.initial) (u : State) :
    lazyOf k limit s ≠ .more u := by
  cases k with
  | ascii85 =>
    change a85DecodeLazy limit s ≠ .more u
    unfold a85DecodeLazy
    split
    · simp
    · exact symbolLoop_ne_more (fun _ _ => unread_lt_of_a85Next) _ _ u
  | asciiHex => exact symbolLoop_ne_more (fun _ _ => unread_lt_of_hexNext) _ s u
  | runLength => exact symbolLoop_ne_more (fun _ _ => unread_lt_of_rlNext) _ s u
  | lzw => exact lzwDecodeLazy_ne_more limit hwork u
  | flate =>
    change flateDecodeLazy limit s ≠ .more u
    unfold flateDecodeLazy
    split
    · simp
    split
    · simp
    · exact inflateThen_ne_more (applyPredictorLazy_ne_more limit) s u

theorem decodeRule_ne_more (k : Kind) {s : State} (hwork : s.work = Work.initial) (u : State) : decodeRule k s ≠ .more u := by
  cases k with
  | ascii85 => exact lazyOf_ne_more .ascii85 (-1) hwork u
  | asciiHex => exact lazyOf_ne_more .asciiHex (-1) hwork u
  | runLength => exact lazyOf_ne_more .runLength (-1) hwork u
  | lzw =>
    change lzwDecode s ≠ .more u
    unfold lzwDecode
    split
    · simp
    · exact symbolLoop_lzw_ne_more hwork lzwEod_ne_more _ u
  | flate =>
    change flateDecode s ≠ .more u
    unfold flateDecode
    split
    · simp
    · exact inflateThen_ne_more applyPredictor_ne_more s u

/-! ## How a decode ends -/

/-- The rule ended `ok` or in an error, behind what it has grown. -/
inductive Concludes (s : State) : Flow → Prop where
  | stop {u : State} (hu : Grows s u) : Concludes s (.stop u)
  | raise {u : State} (e : EngineError) (hu : Grows s u) : Concludes s (.raise e u)

/-- A decoder's rule that does not go on concludes, for it refuses nothing and there is no row capacity to exceed. -/
theorem concludes_of_uniform {body : State → Flow} {s : State} (h : Uniform False True Eq body) (hrow : s.cfg.maxRow = none)
    (hmore : ∀ u, body s ≠ .more u) : Concludes s (body s) := by
  obtain ⟨g, htogether⟩ : ∃ g, EndsTogether False True s s (body s) g := ⟨_, h s s rfl⟩
  generalize body s = f at htogether hmore
  cases htogether with
  | more => exact absurd rfl (hmore _)
  | stop hu => exact .stop hu
  | raise e hu he => exact .raise e hu
  | refuse r hE => exact hE.elim
  | exceeds h => exact absurd hrow h
  | stuck hE => exact hE.elim

section
variable {s : State} (hrow : s.cfg.maxRow = none) (hwork : s.work = Work.initial)
include hrow hwork

theorem decodeRule_concludes (k : Kind) : Concludes s (decodeRule k s) :=
  concludes_of_uniform (uniform_decodeRule k) hrow (decodeRule_ne_more k hwork)

theorem lazyOf_concludes (k : Kind) (limit : Int) : Concludes s (lazyOf k limit s) :=
  concludes_of_uniform (uniform_lazyOf k limit) hrow (lazyOf_ne_more k limit hwork)

end

/-! ## Every command -/

/-- The rule ends the command, `ok`, in an error or refused, with the configuration unchanged. -/
def Settles (s : State) (f : Flow) : Prop :=
  (∃ u, f = .stop u ∧ u.cfg = s.cfg) ∨ (∃ e u, f = .raise e u) ∨ ∃ r u, f = .refuse r u

theorem settles_of_concludes {s : State} {f : Flow} (h : Concludes s f) : Settles s f := by
  cases h with
  | stop hu => exact .inl ⟨_, rfl, hu.cfg_eq⟩
  | raise e hu => exact .inr (.inl ⟨e, _, rfl⟩)

theorem settles_cutExact {s : State} {f : Flow} (h : Concludes s f) (n : Nat) : Settles s (cutExact n f) := by
  cases h with
  | stop hu => exact .inl ⟨_, rfl, hu.cfg_eq⟩
  | raise e hu => exact .inr (.inl ⟨e, _, rfl⟩)

theorem settles_cutChosen {s : State} {f : Flow} (h : Concludes s f) (n : Nat) (c : Option Nat) :
    Settles s (cutChosen n c f) := by
  cases h with
  | stop hu => exact .inl ⟨_, rfl, hu.cfg_eq⟩
  | @raise u e hu =>
    rcases cutChosen_raise n c e u with hraise | ⟨-, p, hstop, -⟩
    · exact .inr (.inl ⟨e, _, hraise⟩)
    · exact .inl ⟨_, hstop, hu.cfg_eq⟩

theorem settles_of_stop {s u : State} {f : Flow} (h : f = .stop u) (hkept : Kept s u) : Settles s f :=
  .inl ⟨u, h, hkept.2.2.1⟩

theorem encodeRule_settles (k : Kind) (input : Bytes) (s : State) :
    Settles (startData input none s) (encodeRule k (startData input none s)) := by
  cases k with
  | ascii85 =>
    obtain ⟨u, hstop, hkept, -⟩ := Ascii85Encode.a85Encode_stops (s := startData input none s) rfl rfl
    exact settles_of_stop hstop hkept
  | asciiHex =>
    obtain ⟨u, hstop, hkept, -⟩ := AsciiHexEncode.hexEncode_stops (s := startData input none s) rfl rfl
    exact settles_of_stop hstop hkept
  | runLength =>
    obtain ⟨u, -, hstop, hkept, -⟩ := RunLengthEncode.rlEncode_stops (s := startData input none s) rfl
    exact settles_of_stop hstop hkept
  | lzw =>
    obtain ⟨u, hstop, hkept, -⟩ := LzwEncode.lzwEncode_stops (s := startData input none s) rfl
    exact settles_of_stop hstop hkept
  | flate =>
    change Settles _ (flateEncode _)
    unfold flateEncode
    split
    · exact .inr (.inl ⟨_, _, rfl⟩)
    split
    · exact .inr (.inr ⟨_, _, rfl⟩)
    · exact .inl ⟨_, rfl, rfl⟩

section
variable {s : State} (hcap : Unbounded s.cfg)
include hcap

theorem boundedDecode_settles (k : Kind) (input : Bytes) (n : Int) :
    Settles (startData input (some n) s)
      (boundedDecode k (decodeRule k) (lazyOf k) (startData input (some n) s)) := by
  have hrow : (startData input (some n) s).cfg.maxRow = none := hcap.2.2.1
  have hfull := decodeRule_concludes hrow rfl k
  have hlazy := lazyOf_concludes hrow rfl k
  unfold boundedDecode
  split
  · exact settles_of_concludes hfull
  split
  · exact settles_cutExact hfull _
  · exact settles_of_concludes (hlazy _)
  · exact settles_cutChosen (hlazy _) _ _

/-- A data command whose rule settles leads to a next state. -/
theorem dataCommand_next_of_settles {input : Bytes} {limit : Option Int} {body : State → Flow}
    (hbody : Settles (startData input limit s) (body (startData input limit s))) :
    ∃ t, dataCommand input limit body s = .next t := by
  unfold dataCommand
  rw [hcap.1]
  split
  · simp at *
  split
  · exact ⟨_, rfl⟩
  split
  · exact ⟨_, rfl⟩
  · rcases hbody with ⟨u, hstop, hcfg⟩ | ⟨e, u, hraise⟩ | ⟨r, u, hrefuse⟩
    · rw [hstop]
      have hcap' : Unbounded u.cfg := hcfg ▸ hcap
      exact ⟨_, Predictor.settleSymbol_stop hcap'⟩
    · rw [hraise]
      exact ⟨_, rfl⟩
    · rw [hrefuse]
      exact ⟨_, rfl⟩

theorem exec_next_of_command {i : Instr} (hi : CommandForm i) : ∃ t, exec i s = .next t := by
  cases hi with
  | encode k input =>
    rw [exec_decodeEncode]
    exact dataCommand_next_of_settles hcap (encodeRule_settles k input s)
  | decode k input =>
    rw [exec_decodeDecode]
    exact dataCommand_next_of_settles hcap (settles_of_concludes
      (decodeRule_concludes (s := startData input (some (-1)) s) hcap.2.2.1 rfl k))
  | decodelen k n input =>
    rw [exec_decodeDecodelen]
    exact dataCommand_next_of_settles hcap (boundedDecode_settles hcap k input n)
  | list => exact ⟨_, rfl⟩
  | supports name => exact ⟨_, execSupports_of_unbounded hcap name⟩
  | native k parms =>
    rw [exec_newfilterOf]
    cases hfit : parmsFit s.cfg.paramBits parms with
    | false => exact ⟨_, newNative_of_unfit hcap hfit⟩
    | true => exact ⟨_, newNative_of_fit hcap hfit⟩
  | unsupported name hform =>
    rw [hform]
    exact ⟨_, newUnsupported_of_unbounded hcap name⟩
  | reserved hform =>
    rw [hform]
    exact ⟨_, rfl⟩

end

/-! ## The numbers of STATUS (60_exceptions.md R251) -/

/-- The outcomes in the order of their numbers. -/
def statusTable : List Status :=
  [.ok, .error .unsupportedFilter, .error .undefinedPredictor, .error .unsupportedPredictor, .error .colors, .error .bpc,
    .error .columns, .error .a85MissingEod, .error .a85Invalid, .error .hexInvalid, .error .hexMissingEod,
    .error .rlTruncated, .error .lzwCorrupt, .error .flateCorrupt, .error .predictorData, .refusal .noInstance,
    .refusal .encodePredictor, .refusal .badCommand]

/-- The outcome stands in the table at its number. -/
theorem statusTable_statusCode (st : Status) : statusTable[statusCode st]? = some st := by
  cases st with
  | ok => rfl
  | error e => cases e <;> rfl
  | refusal r => cases r <;> rfl

theorem statusCode_le (st : Status) : statusCode st ≤ 17 := by
  obtain ⟨hlt, -⟩ := List.getElem?_eq_some_iff.1 (statusTable_statusCode st)
  exact Nat.le_of_lt_succ hlt

/-- Settles O57: `exec_next_of_command`; the table gives back the outcome of a number (`statusTable_statusCode`). -/
theorem everyCommandTerminates : Obligations.EveryCommandTerminates := by
  refine ⟨fun i s hi hcap => ?_, rfl, fun a b hab => ?_⟩
  · obtain ⟨t, hexec⟩ := exec_next_of_command hcap (commandForm hi)
    exact ⟨t, hexec, statusCode_le t.status⟩
  · have ha := statusTable_statusCode a
    rw [hab, statusTable_statusCode b] at ha
    exact (Option.some.inj ha).symm

end Sys2Proof.Proofs.Termination
end

section
/-! The bounded decode and its relation (47_bounded_decode.md R243 to R248). Three comparisons of a kind's rules make it up:
the decode rule reports what the trace reports; a run under a limit is the trace or an opening part of it (`CutShort`); and
neither depends on MAXLEN or BOUNDED_STOP (`Frame`). -/

namespace Sys2Proof.Proofs.BoundedRelation

open Sys2Proof Sys2Proof.Machine Sys2Proof.Streams Sys2Proof.Proofs.Frame Sys2Proof.Proofs.Termination
open Sys2Proof.Proofs.ExactBoundedDecode Sys2Proof.Proofs.LzwDecode Sys2Proof.Proofs.LzwExpansion

/-! ## Reports and traces -/

/-- What a run reports, its bytes or its error. -/
def reportOf : Flow → Option DecodeResult
  | .stop u => some (.ok u.out)
  | .raise e _ => some (.error e)
  | .more _ | .refuse _ _ | .exceeds | .stuck => none

/-- What a trace reports. -/
def resultOfTrace (tr : Trace) : DecodeResult :=
  match tr.2 with
  | none => .ok tr.1
  | some e => .error e

theorem reportOf_of_trace {f : Flow} {tr : Trace} (h : f.trace = some tr) : reportOf f = some (resultOfTrace tr) := by
  cases f with
  | stop u =>
    obtain rfl := Option.some.inj h
    rfl
  | raise e u =>
    obtain rfl := Option.some.inj h
    rfl
  | more | refuse | exceeds | stuck => exact absurd h (by simp [Flow.trace])

theorem trace_of_concludes {s : State} {f : Flow} (h : Concludes s f) : ∃ tr, f.trace = some tr := by
  cases h with
  | stop => exact ⟨_, rfl⟩
  | raise => exact ⟨_, rfl⟩

/-- A command delivers what its rule reports. -/
theorem settleCommand_of_report {f : Flow} {r : DecodeResult} (h : reportOf f = some r)
    (hcap : ∀ u, f = .stop u → Unbounded u.cfg) : ∃ t, settleCommand f = .next t ∧ resultOf t = some r := by
  cases f with
  | stop u => exact ⟨_, Predictor.settleSymbol_stop (hcap u rfl), h⟩
  | raise e u => exact ⟨_, rfl, h⟩
  | more | refuse | exceeds | stuck => exact absurd h (by simp [reportOf])

/-- Runs that end together report the same, behind the same bytes. -/
theorem trace_of_endsTogether {E V : Prop} {F s : State} {f g : Flow} (h : EndsTogether E V F s f g) :
    g.trace = f.trace := by
  cases h <;> rfl

/-! ## Results that the relation allows -/

/-- The run reports a result that R243 allows for the trace. -/
def Obeys (n : Nat) (tr : Trace) (f : Flow) : Prop :=
  ∃ r, reportOf f = some r ∧ BoundedOk tr n r

theorem boundedOk_ok {y p : Bytes} {n : Nat} (hp : p <+: y) (hlen : min n y.length ≤ p.length) :
    BoundedOk (y, none) n (.ok p) :=
  ⟨p, rfl, hp, hlen⟩

theorem boundedOk_hidden {y p : Bytes} {n : Nat} {e : EngineError} (he : alwaysReported e = false) (hp : p <+: y)
    (hlen : n ≤ p.length) : BoundedOk (y, some e) n (.ok p) :=
  .inr ⟨he, p, rfl, hp, hlen⟩

/-- What the trace itself reports is allowed. -/
theorem boundedOk_resultOfTrace (tr : Trace) (n : Nat) : BoundedOk tr n (resultOfTrace tr) := by
  obtain ⟨y, _ | e⟩ := tr
  · exact boundedOk_ok List.prefix_rfl (Nat.min_le_right _ _)
  · exact .inl rfl

theorem obeys_of_report {n : Nat} {tr : Trace} {f : Flow} (h : reportOf f = some (resultOfTrace tr)) : Obeys n tr f :=
  ⟨_, h, boundedOk_resultOfTrace tr n⟩

/-- `exact` cuts what was decoded, and reports every error (R244). -/
theorem obeys_cutExact {n : Nat} {tr : Trace} {f : Flow} (h : reportOf f = some (resultOfTrace tr)) :
    Obeys n tr (cutExact n f) := by
  cases f with
  | stop u =>
    obtain ⟨y, _ | e⟩ := tr
    · obtain rfl : u.out = y := Except.ok.inj (Option.some.inj h)
      exact ⟨_, rfl, boundedOk_ok (List.take_prefix n _) (List.length_take ..).ge⟩
    · exact absurd h (by simp [reportOf, resultOfTrace])
  | raise e u => exact obeys_of_report h
  | more | refuse | exceeds | stuck => exact absurd h (by simp [reportOf])

/-- `choose` ends in one of the ways that R243 allows for the trace. -/
theorem obeys_cutChosen {n : Nat} {c : Option Nat} {tr : Trace} {f : Flow} (h : f.trace = some tr) :
    Obeys n tr (cutChosen n c f) := by
  cases f with
  | stop u =>
    obtain rfl := Option.some.inj h
    obtain ⟨p, hcut, hp, hlen⟩ := cutChosen_stop n c u
    exact ⟨.ok p, by rw [hcut]; rfl, boundedOk_ok hp hlen⟩
  | raise e u =>
    obtain rfl := Option.some.inj h
    rcases cutChosen_raise n c e u with hraise | ⟨he, p, hcut, hp, hlen⟩
    · exact ⟨.error e, by rw [hraise]; rfl, .inl rfl⟩
    · exact ⟨.ok p, by rw [hcut]; rfl, boundedOk_hidden he hp hlen⟩
  | more | refuse | exceeds | stuck => exact absurd h (by simp [Flow.trace])

/-! ## A run under a limit -/

/-- The run goes on from `s` with more bytes, and with no error that is always reported. -/
structure Extends (s : State) (f : Flow) : Prop where
  stop : ∀ v, f = .stop v → s.out <+: v.out
  raise : ∀ e v, f = .raise e v → s.out <+: v.out ∧ alwaysReported e = false

theorem extends_of_endsTogether {E : Prop} {F s : State} {f g : Flow} (h : EndsTogether E False F s f g) : Extends s f := by
  cases h with
  | stop hu => exact ⟨fun v hv => Flow.stop.inj hv ▸ hu.out, fun _ _ hv => absurd hv (by simp)⟩
  | raise e hu he =>
    refine ⟨fun _ hv => absurd hv (by simp), fun e' v hv => ?_⟩
    obtain ⟨rfl, rfl⟩ := Flow.raise.inj hv
    exact ⟨hu.out, by simpa using he⟩
  | more | refuse | exceeds | stuck => exact ⟨fun _ hv => absurd hv (by simp), fun _ _ hv => absurd hv (by simp)⟩

/-- The limited run `f` is the unlimited run `g`, or was stopped on its way with at least `n` bytes. -/
def CutShort (n : Nat) (f g : Flow) : Prop :=
  f = g ∨ ∃ u, f = .stop u ∧ n ≤ u.out.length ∧ Extends u g

theorem CutShort.ite {n : Nat} {f g f' g' : Flow} {c : Prop} [Decidable c] (hthen : CutShort n f g)
    (helse : CutShort n f' g') : CutShort n (if c then f else f') (if c then g else g') := by
  split
  · exact hthen
  · exact helse

theorem obeys_of_cutShort {n : Nat} {f g : Flow} {tr : Trace} (h : CutShort n f g) (htr : g.trace = some tr) :
    Obeys n tr f := by
  rcases h with rfl | ⟨u, rfl, hlen, hstop, hraise⟩
  · exact obeys_of_report (reportOf_of_trace htr)
  · cases g with
    | stop v =>
      obtain rfl := Option.some.inj htr
      exact ⟨_, rfl, boundedOk_ok (hstop v rfl) ((Nat.min_le_left _ _).trans hlen)⟩
    | raise e v =>
      obtain rfl := Option.some.inj htr
      obtain ⟨hout, he⟩ := hraise e v rfl
      exact ⟨_, rfl, boundedOk_hidden he hout hlen⟩
    | more | refuse | exceeds | stuck => exact absurd htr (by simp [Flow.trace])

theorem le_of_full {len n : Nat} (h : checkBufLen len (n : Int) = false) : n ≤ len := by
  have hnot : ¬ ((n : Int) < 0 ∨ (len : Int) < n) := mt checkBufLen_eq_true.2 (by simp [h])
  omega

/-- A limit stops the loop before a round, and the rounds behind only add to OUT (R248). -/
theorem loop_cutShort {E : Prop} {n : Nat} {body atEnd : State → Flow} (hbody : Uniform E False Eq body)
    (hend : Uniform E False Eq atEnd) (k : Nat) (s : State) :
    CutShort n (loop n body atEnd k s) (loop (-1) body atEnd k s) := by
  cases hlimit : checkBufLen s.out.length (n : Int) with
  | false =>
    exact .inr ⟨s, loop_full hlimit, le_of_full hlimit, extends_of_endsTogether (uniform_loop hbody hend k s s rfl)⟩
  | true =>
    have hnone : checkBufLen s.out.length (-1) = true := checkBufLen_neg (by decide)
    cases k with
    | zero =>
      rw [loop, loop, if_pos hlimit, if_pos hnone]
      exact .inl rfl
    | succ k =>
      by_cases hmore : ∃ s', body s = .more s'
      · obtain ⟨s', hs'⟩ := hmore
        rw [loop_step hlimit hs', loop_step hnone hs']
        exact loop_cutShort hbody hend k s'
      · push Not at hmore
        rw [loop_end hlimit rfl hmore, loop_end hnone rfl hmore]
        exact .inl rfl

theorem symbolLoop_cutShort {E : Prop} {n : Nat} {body : State → Flow} (hbody : Uniform E False Eq body) (s : State) :
    CutShort n (symbolLoop n body s) (symbolLoop (-1) body s) :=
  loop_cutShort hbody uniform_more _ s

theorem rowLoop_cutShort {E : Prop} {frame n : Nat} {body atEnd : State → Flow} (hbody : Uniform E False Eq body)
    (hend : Uniform E False Eq atEnd) (s : State) :
    CutShort n (rowLoop frame n body atEnd s) (rowLoop frame (-1) body atEnd s) :=
  .ite (loop_cutShort hbody hend _ _) (.inl rfl)

/-! ## What validation leaves -/

/-- What an instance that passes validation has (40_registry_factory.md R109). -/
theorem legal_of_valid {k : Kind} {i : Inst} (h : validateParms k i = none) :
    GeometryOk i ∧ (parm i .predictor = 1 ∨ parm i .predictor = 2 ∨ 10 ≤ parm i .predictor ∧ parm i .predictor ≤ 15) := by
  unfold validateParms at h
  split_ifs at h with hundefined hunsupported hcolors hbpc hcolumns
  refine ⟨⟨by omega, ?_, by omega⟩, ?_⟩
  · simp only [isBpc, decide_eq_false_iff_not, not_not] at hbpc
    simpa using hbpc
  · simp only [isSimple, isPng, decide_eq_false_iff_not] at hundefined
    tauto

/-! ## The lazy rule of every kind under a limit -/

theorem lzwDecodeLazy_cutShort (n : Nat) (s : State) : CutShort n (lzwDecodeLazy n s) (lzwDecodeLazy (-1) s) := by
  cases hvalid : validateParms .lzw s.inst with
  | some e => exact .inl (by simp only [lzwDecodeLazy, hvalid])
  | none =>
    have hnext : Uniform False False Eq (lzwNext Flow.stop) := uniform_lzwNext uniform_stop
    by_cases hone : parm s.inst .predictor = 1
    · rw [lzwDecodeLazy_of_one hvalid hone, lzwDecodeLazy_of_one hvalid hone]
      exact symbolLoop_cutShort hnext s
    cases hlimit : checkBufLen s.out.length (n : Int) with
    | false =>
      have htrace : Extends s (lzwDecodeLazy (-1) s) := extends_of_endsTogether
        (endsTogether_lzwDecodeLazy (E := False) (-1) (F := s) rfl fun h => absurd hvalid h)
      exact .inr ⟨s, by simp only [lzwDecodeLazy, hvalid, if_neg hone, if_pos hlimit], le_of_full hlimit, htrace⟩
    | true =>
      have hgo : ¬ checkBufLen s.out.length (n : Int) = false := by simp [hlimit]
      have hgo' : ¬ checkBufLen s.out.length (-1) = false := by simp [checkBufLen_neg]
      obtain ⟨g, htogether⟩ : ∃ g, EndsTogether False False s s (symbolLoop (-1) (lzwNext Flow.stop) s) g :=
        ⟨_, uniform_symbolLoop hnext s s rfl⟩
      simp only [lzwDecodeLazy, hvalid, if_neg hone, if_neg hgo, if_neg hgo']
      generalize symbolLoop (-1) (lzwNext Flow.stop) s = f at htogether
      cases htogether with
      | stop hu => exact rowLoop_cutShort (E := False) uniform_tiffHdiff (uniform_leftoverEnd _) _
      | raise e hu he => exact rowLoop_cutShort (E := False) uniform_tiffHdiff (uniform_raise e he) _
      | more | refuse | exceeds | stuck => exact .inl rfl

theorem applyPredictorLazy_cutShort {s : State} (hvalid : validateParms .flate s.inst = none) (n : Nat) :
    CutShort n (applyPredictorLazy n s) (applyPredictorLazy (-1) s) ∧ Extends s (applyPredictorLazy (-1) s) := by
  obtain ⟨-, hone | htwo | ⟨hlow, hhigh⟩⟩ := legal_of_valid hvalid
  · rw [Flate.applyPredictorLazy_of_one _ hone, Flate.applyPredictorLazy_of_one _ hone]
    exact ⟨.inl rfl, extends_of_endsTogether (uniform_predNone (E := False) (R := Eq) s s rfl)⟩
  · rw [Flate.applyPredictorLazy_of_two _ htwo, Flate.applyPredictorLazy_of_two _ htwo]
    exact ⟨rowLoop_cutShort (E := False) uniform_tiffHdiff (uniform_leftoverEnd _) s,
      extends_of_endsTogether (uniform_tiffRows (E := False) (-1) (uniform_leftoverEnd _) s s rfl)⟩
  · rw [Flate.applyPredictorLazy_of_png _ hlow hhigh, Flate.applyPredictorLazy_of_png _ hlow hhigh]
    exact ⟨rowLoop_cutShort (E := False) uniform_pngNext (uniform_leftoverEnd _) (startChunks s),
      extends_of_endsTogether (uniform_pngRows (E := False) (-1) s s rfl)⟩

theorem flateDecodeLazy_cutShort (n : Nat) (s : State) : CutShort n (flateDecodeLazy n s) (flateDecodeLazy (-1) s) := by
  cases hvalid : validateParms .flate s.inst with
  | some e => exact .inl (by simp only [flateDecodeLazy, hvalid])
  | none =>
    have hrun : CutShort n (inflateThen (applyPredictorLazy n) s) (inflateThen (applyPredictorLazy (-1)) s) ∧
        Extends s (inflateThen (applyPredictorLazy (-1)) s) := by
      cases hinflate : inflate s.cfg s.input with
      | none =>
        rw [Flate.inflateThen_of_none _ hinflate, Flate.inflateThen_of_none _ hinflate]
        exact ⟨.inl rfl, extends_of_endsTogether (E := False) (F := s) (.raise .flateCorrupt (grows_refl s))⟩
      | some r =>
        rw [Flate.inflateThen_of_some _ hinflate, Flate.inflateThen_of_some _ hinflate]
        obtain ⟨hcut, hstop, hraise⟩ := applyPredictorLazy_cutShort (s := { s with work := { s.work with raw := r } }) hvalid n
        exact ⟨hcut, hstop, hraise⟩
    rw [Flate.flateDecodeLazy_unlimited hvalid, Flate.flateDecodeLazy_of_valid hvalid]
    cases hlimit : checkBufLen s.out.length (n : Int) with
    | false => exact .inr ⟨s, if_pos rfl, le_of_full hlimit, hrun.2⟩
    | true => exact hrun.1

/-! ## ASCII85: the terminator splits the input -/

/-- What is found is the terminator behind a body that holds none. -/
theorem exists_body_of_findEod {input : Bytes} {p : Nat} (h : findEod input = some p) :
    ∃ body junk, input = body ++ 0x7E :: 0x3E :: junk ∧ ¬ [0x7E, 0x3E] <:+: body := by
  induction input generalizing p with
  | nil => exact absurd h (by simp [findEod])
  | cons a rest ih =>
    by_cases hopens : a = 0x7E ∧ rest.head? = some 0x3E
    · obtain ⟨rfl, hhead⟩ := hopens
      obtain ⟨more, rfl⟩ := List.head?_eq_some_iff.1 hhead
      exact ⟨[], more, rfl, by simp⟩
    · rw [Ascii85Decode.findEod_cons fun ha hb => hopens ⟨ha, hb⟩, Option.map_eq_some_iff] at h
      obtain ⟨q, hq, -⟩ := h
      obtain ⟨body, junk, rfl, hbody⟩ := ih hq
      refine ⟨a :: body, junk, rfl, fun hin => ?_⟩
      rcases List.infix_cons_iff.1 hin with hfront | hin
      · obtain ⟨rfl, more, rfl⟩ := List.cons_prefix_cons.1 hfront
        exact hopens ⟨rfl, rfl⟩
      · exact hbody hin

/-- The scans of one body, with a limit and without (`a85DecodeLazy_ends`). -/
theorem a85DecodeLazy_obeys {n : Nat} {s : State} {tr : Trace} (hip : s.ip = 0) (hwork : s.work = Work.initial)
    (hout : s.out = []) (htr : (a85DecodeLazy (-1) s).trace = some tr) : Obeys n tr (a85DecodeLazy n s) := by
  cases hfind : findEod s.input with
  | none =>
    refine obeys_of_report ((congrArg reportOf ?_).trans (reportOf_of_trace htr))
    rw [a85DecodeLazy, a85DecodeLazy, hfind]
  | some p =>
    obtain ⟨body, junk, hinput, hbody⟩ := exists_body_of_findEod hfind
    have hends := Ascii85Decode.a85DecodeLazy_ends hbody hinput hip hwork hout
    obtain ⟨v, -, htrace⟩ := hends (-1)
    obtain ⟨u, -, hlimited⟩ := hends n
    rw [List.nil_append] at htrace hlimited
    have hfull : ¬ checkBufLen v.out.length (-1) = false := by simp [checkBufLen_neg]
    rcases htrace with ⟨hv, ⟨hstop, hsome⟩ | ⟨hraise, hnone⟩⟩ | ⟨-, -, hlimit⟩
    · rw [hstop] at htr
      obtain rfl := Option.some.inj htr
      rw [← hv] at hlimited
      rcases hlimited with ⟨hu, ⟨hstop', -⟩ | ⟨-, hnone⟩⟩ | ⟨hstop', hu, hlimit⟩
      · exact ⟨.ok u.out, by rw [hstop']; rfl, boundedOk_ok (hu ▸ List.prefix_rfl) (hu ▸ Nat.min_le_right _ _)⟩
      · simp [hnone] at hsome
      · exact ⟨.ok u.out, by rw [hstop']; rfl, boundedOk_ok hu ((Nat.min_le_left _ _).trans (le_of_full hlimit))⟩
    · rw [hraise] at htr
      obtain rfl := Option.some.inj htr
      rw [← hv] at hlimited
      rcases hlimited with ⟨-, ⟨-, hsome⟩ | ⟨hraise', -⟩⟩ | ⟨hstop', hu, hlimit⟩
      · simp [hnone] at hsome
      · exact ⟨.error .a85Invalid, by rw [hraise']; rfl, .inl rfl⟩
      · exact ⟨.ok u.out, by rw [hstop']; rfl, boundedOk_hidden rfl hu (le_of_full hlimit)⟩
    · exact absurd hlimit hfull

/-- What a lazy decoder delivers under a limit is what R243 allows (R248). -/
theorem lazyOf_obeys (k : Kind) {n : Nat} {s : State} {tr : Trace} (hip : s.ip = 0) (hwork : s.work = Work.initial)
    (hout : s.out = []) (htr : (lazyOf k (-1) s).trace = some tr) : Obeys n tr (lazyOf k n s) := by
  cases k with
  | ascii85 => exact a85DecodeLazy_obeys hip hwork hout htr
  | asciiHex => exact obeys_of_cutShort (symbolLoop_cutShort (E := False) uniform_hexNext s) htr
  | runLength => exact obeys_of_cutShort (symbolLoop_cutShort (E := False) uniform_rlNext s) htr
  | lzw => exact obeys_of_cutShort (lzwDecodeLazy_cutShort n s) htr
  | flate => exact obeys_of_cutShort (flateDecodeLazy_cutShort n s) htr

/-! ## The decode rule and the trace report the same (R247) -/

/-- A row is emitted from the buffer, which stays, or the buffer is broken. -/
def RowStep (body : State → Flow) : Prop :=
  ∀ s, (∃ u, body s = .more u ∧ u.work.raw = s.work.raw) ∨ body s = .raise .predictorData s

theorem rowStep_tiffHdiff : RowStep tiffHdiff := by
  intro s
  unfold tiffHdiff
  split
  · exact .inr rfl
  · exact .inl ⟨_, rfl, rfl⟩

theorem rowStep_pngRow (filter : Nat → Option Bytes → Bytes → Bytes) : RowStep (pngRow filter) := by
  intro s
  unfold pngRow
  dsimp only
  split
  · exact .inr rfl
  · exact .inl ⟨_, rfl, rfl⟩

theorem rowStep_pngNext : RowStep pngNext := by
  intro s
  unfold pngNext
  split
  · exact .inr rfl
  · unfold pngCases
    split_ifs
    · exact rowStep_pngRow noneRow s
    · exact rowStep_pngRow subRow s
    · exact rowStep_pngRow upRow s
    · exact rowStep_pngRow avgRow s
    · exact rowStep_pngRow paethRow s
    · exact .inr rfl

/-- The rows of a buffer come to an end of their own, or to the one that follows them. -/
theorem loop_rows {body : State → Flow} (hbody : RowStep body) (n : Nat) (s : State) :
    ∃ t, t.work.raw = s.work.raw ∧
      ((∀ atEnd, loop (-1) body atEnd n s = atEnd t) ∨ ∀ atEnd, loop (-1) body atEnd n s = .raise .predictorData t) := by
  have hnone {len : Nat} : checkBufLen len (-1) = true := checkBufLen_neg (by decide)
  induction n generalizing s with
  | zero => exact ⟨s, rfl, .inl fun _ => if_pos hnone⟩
  | succ n ih =>
    rcases hbody s with ⟨u, hmore, hraw⟩ | hraise
    · obtain ⟨t, hraw', hend⟩ := ih u
      refine ⟨t, hraw'.trans hraw, hend.imp (fun h atEnd => ?_) fun h atEnd => ?_⟩
      · rw [loop_step hnone hmore, h]
      · rw [loop_step hnone hmore, h]
    · exact ⟨s, rfl, .inr fun _ => loop_end hnone hraise (by simp)⟩

/-- The length of a buffer may be tested before its rows or behind them: a broken buffer is the same error. -/
theorem reportOf_rows {frame : Nat} {body : State → Flow} {s s' : State} (hbody : RowStep body) (hcap : Unbounded s'.cfg)
    (hraw : s'.work.raw = s.work.raw) :
    reportOf (if s.work.raw.length % frame = 0 then rowLoop frame (-1) body Flow.stop s' else .raise .predictorData s) =
      reportOf (rowLoop frame (-1) body (leftoverEnd frame) s') := by
  simp only [Predictor.rowLoop_of_unbounded hcap]
  obtain ⟨t, hraw', hend | hraise⟩ := loop_rows hbody (s'.work.raw.length / frame) (startRows s')
  · have hkept : t.work.raw = s.work.raw := hraw'.trans hraw
    rw [hend, hend, leftoverEnd, hkept]
    split <;> rfl
  · rw [hraise, hraise]
    split <;> rfl

section
variable {s : State} (hcap : Unbounded s.cfg)
include hcap

theorem reportOf_tiffBuffer : reportOf (tiffBuffer s) = reportOf (tiffRows (-1) (leftoverEnd (tiffFrame s)) s) :=
  reportOf_rows rowStep_tiffHdiff hcap rfl

theorem reportOf_pngBuffer : reportOf (pngBuffer s) = reportOf (pngRows (-1) s) :=
  reportOf_rows (s' := startChunks s) rowStep_pngNext hcap rfl

theorem reportOf_applyPredictor (hvalid : validateParms .flate s.inst = none) :
    reportOf (applyPredictor s) = reportOf (applyPredictorLazy (-1) s) := by
  obtain ⟨-, hone | htwo | ⟨hlow, hhigh⟩⟩ := legal_of_valid hvalid
  · rw [Flate.applyPredictor_of_one hone, Flate.applyPredictorLazy_of_one _ hone]
  · rw [Flate.applyPredictor_of_two htwo, Flate.applyPredictorLazy_of_two _ htwo]
    exact reportOf_tiffBuffer hcap
  · rw [Flate.applyPredictor_of_png hlow hhigh, Flate.applyPredictorLazy_of_png _ hlow hhigh]
    exact reportOf_pngBuffer hcap

theorem reportOf_flateDecode : reportOf (flateDecode s) = reportOf (flateDecodeLazy (-1) s) := by
  cases hvalid : validateParms .flate s.inst with
  | some e => simp only [flateDecode, flateDecodeLazy, hvalid]
  | none =>
    rw [Flate.flateDecode_of_valid hvalid, Flate.flateDecodeLazy_unlimited hvalid]
    cases hinflate : inflate s.cfg s.input with
    | none => rw [Flate.inflateThen_of_none _ hinflate, Flate.inflateThen_of_none _ hinflate]
    | some r =>
      rw [Flate.inflateThen_of_some _ hinflate, Flate.inflateThen_of_some _ hinflate]
      exact reportOf_applyPredictor (s := { s with work := { s.work with raw := r } }) hcap hvalid

/-- Both rules expand the codes alike (`symbolLoop_ending`) and differ in what they do with the expansion. -/
theorem reportOf_lzwDecode (hwork : s.work = Work.initial) :
    reportOf (lzwDecode s) = reportOf (lzwDecodeLazy (-1) s) := by
  cases hvalid : validateParms .lzw s.inst with
  | some e => simp only [lzwDecode, lzwDecodeLazy, hvalid]
  | none =>
    obtain ⟨hgeo, -⟩ := legal_of_valid hvalid
    obtain ⟨ending, e, hloop⟩ := symbolLoop_ending s.input
    have hfull := hloop s lzwEod rfl hwork lzwEod_ne_more
    have hlazy := hloop s Flow.stop rfl hwork (by simp)
    have hcap' : Unbounded (reached s e).cfg := by rwa [reached_cfg]
    rw [lzwDecode_of_valid hvalid, hfull]
    by_cases hone : parm s.inst .predictor = 1
    · rw [lzwDecodeLazy_of_one hvalid hone, hlazy]
      cases ending with
      | goesOn | corrupt => rfl
      | endOfData => exact congrArg reportOf (lzwEod_of_one (by rwa [reached_inst]))
    · cases ending with
      | goesOn => exact absurd hfull (symbolLoop_lzw_ne_more hwork lzwEod_ne_more (-1) _)
      | endOfData =>
        rw [lzwDecodeLazy_unlimited_of_stop hvalid hone hlazy]
        exact (congrArg reportOf (lzwEod_of_ne_one (by rwa [reached_inst]))).trans (reportOf_tiffBuffer hcap')
      | corrupt =>
        rw [lzwDecodeLazy_unlimited_of_raise hvalid hone hlazy]
        obtain ⟨-, t, -, hrows, -⟩ := tiffRows_unlimited hcap' (by rwa [reached_inst]) (Flow.raise .lzwCorrupt)
        rw [hrows]
        rfl

/-- DECODE reports what its trace reports. -/
theorem reportOf_decodeRule (k : Kind) (hwork : s.work = Work.initial) :
    reportOf (decodeRule k s) = reportOf (lazyOf k (-1) s) := by
  cases k with
  | ascii85 | asciiHex | runLength => rfl
  | lzw => exact reportOf_lzwDecode hcap hwork
  | flate => exact reportOf_flateDecode hcap

end

/-! ## The commands -/

/-- A data command delivers what its rule reports. -/
theorem dataCommand_of_report {input : Bytes} {limit : Option Int} {body : State → Flow} {s : State} {r : DecodeResult}
    (hs : Ready s) (hlimit : limit.all (fitsParamBits s.cfg.paramBits) = true)
    (hends : Settles (startData input limit s) (body (startData input limit s)))
    (hr : reportOf (body (startData input limit s)) = some r) :
    ∃ t, dataCommand input limit body s = .next t ∧ resultOf t = some r := by
  rw [dataCommand_of_ready hs hlimit]
  refine settleCommand_of_report hr fun u hu => ?_
  rcases hends with ⟨v, hstop, hcfg⟩ | ⟨e, v, hraise⟩ | ⟨e, v, hrefuse⟩
  · obtain rfl := Flow.stop.inj (hu.symm.trans hstop)
    exact hcfg ▸ hs.2
  · exact absurd (hu.symm.trans hraise) (by simp)
  · exact absurd (hu.symm.trans hrefuse) (by simp)

/-- The trace of an input does not depend on MAXLEN or BOUNDED_STOP. -/
theorem trace_of_traceOf {k : Kind} {input : Bytes} {s : State} {tr : Trace} (h : traceOf k input s = some tr)
    (stop : BoundedStop) (n : Int) :
    (lazyOf k (-1) (startData input (some n) { s with cfg := { s.cfg with boundedStop := stop } })).trace = some tr :=
  (trace_of_endsTogether (uniform_lazyOf (E := True) k (-1)
    (startData input (some n) { s with cfg := { s.cfg with boundedStop := stop } }) (startData input (some (-1)) s) rfl)).trans h

/-- Settles O51: DECODE by `reportOf_decodeRule`; DECODELEN by what each BOUNDED_STOP makes of the trace. -/
theorem boundedDecodeObeysTheRelation : Obligations.BoundedDecodeObeysTheRelation := by
  intro k input n s hs hfit
  have hrow := hs.2.2.2.1
  obtain ⟨⟨y, stop⟩, htrace⟩ := trace_of_concludes
    (lazyOf_concludes (s := startData input (some (-1)) s) hrow rfl k (-1))
  refine ⟨y, stop, htrace, ?decode, ?decodelen⟩
  case decode =>
    rw [exec_decodeDecode]
    exact dataCommand_of_report hs (by simp)
      (settles_of_concludes (decodeRule_concludes (s := startData input (some (-1)) s) hrow rfl k))
      ((reportOf_decodeRule (s := startData input (some (-1)) s) hs.2 k rfl).trans (reportOf_of_trace htrace))
  case decodelen =>
    have htrace' : (lazyOf k (-1) (startData input (some (n : Int)) s)).trace = some (y, stop) :=
      trace_of_traceOf htrace s.cfg.boundedStop n
    have hfull := (reportOf_decodeRule (s := startData input (some (n : Int)) s) hs.2 k rfl).trans (reportOf_of_trace htrace')
    obtain ⟨r, hr, hok⟩ : Obeys n (y, stop)
        (boundedDecode k (decodeRule k) (lazyOf k) (startData input (some (n : Int)) s)) := by
      rcases boundedDecode_nonneg (k := k) (full := decodeRule k) (lazy := lazyOf k)
        (s := startData input (some (n : Int)) s) (Int.natCast_nonneg n) with ⟨-, h⟩ | ⟨-, h⟩ | ⟨known, -, h⟩
      · rw [h]
        exact obeys_cutExact hfull
      · rw [h]
        exact lazyOf_obeys k rfl rfl rfl htrace'
      · rw [h]
        exact obeys_cutChosen htrace'
    rw [exec_decodeDecodelen]
    obtain ⟨t, hexec, hresult⟩ := dataCommand_of_report (limit := some (n : Int)) hs hfit
      (boundedDecode_settles hs.2 k input n) hr
    exact ⟨t, r, hexec, hresult, hok⟩

/-! ## Every allowed result is reached -/

/-- The choice that leads to a result: its length, or none for an error. -/
def choiceFor : DecodeResult → Option Nat
  | .ok p => some p.length
  | .error _ => none

/-- What R243 allows for the trace is what its choice makes of it. -/
theorem reportOf_cutChosen {n : Nat} {tr : Trace} {r : DecodeResult} {f : Flow} (h : f.trace = some tr)
    (hr : BoundedOk tr n r) : reportOf (cutChosen n (choiceFor r) f) = some r := by
  cases f with
  | stop u =>
    obtain rfl := Option.some.inj h
    obtain ⟨p, rfl, hp, hlen⟩ := hr
    rw [choiceFor, cutChosen_stop_reaches hp hlen]
    rfl
  | raise e u =>
    obtain rfl := Option.some.inj h
    rcases hr with rfl | ⟨he, p, rfl, hp, hlen⟩
    · rfl
    · rw [choiceFor, cutChosen_raise_reaches he hp hlen]
      rfl
  | more | refuse | exceeds | stuck => exact absurd h (by simp [Flow.trace])

/-- The engine whose BOUNDED_STOP lists a choice for the case at hand. -/
def choosing (k : Kind) (input : Bytes) (n : Nat) (choice : Option Nat) (s : State) : State :=
  { s with cfg := { s.cfg with
      boundedStop := .choose [(stopCase k (startData input (some (n : Int)) s), choice)] } }

theorem boundedDecode_choosing (k : Kind) (input : Bytes) (n : Nat) (choice : Option Nat) (s : State) :
    boundedDecode k (decodeRule k) (lazyOf k) (startData input (some (n : Int)) (choosing k input n choice s)) =
      cutChosen n choice (lazyOf k (-1) (startData input (some (n : Int)) (choosing k input n choice s))) := by
  rcases boundedDecode_nonneg (k := k) (full := decodeRule k) (lazy := lazyOf k)
    (s := startData input (some (n : Int)) (choosing k input n choice s)) (Int.natCast_nonneg n) with
    ⟨hexact, -⟩ | ⟨hlazy, -⟩ | ⟨known, hknown, h⟩
  · exact absurd hexact (by simp [choosing])
  · exact absurd hlazy (by simp [choosing])
  · obtain rfl := BoundedStop.choose.inj hknown
    have hcase : stopCase k (startData input (some (n : Int)) (choosing k input n choice s)) =
        stopCase k (startData input (some (n : Int)) s) := rfl
    rw [h, hcase, chosenStop_listed]
    rfl

/-- Settles O52: a BOUNDED_STOP that lists the choice of the result for the case at hand. -/
theorem everyAllowedResultIsReached : Obligations.EveryAllowedResultIsReached := by
  intro k input n s tr r hs hfit htrace hr
  have htrace' := trace_of_traceOf htrace
    (.choose [(stopCase k (startData input (some (n : Int)) s), choiceFor r)]) (n : Int)
  have hs' : Ready (choosing k input n (choiceFor r) s) := hs
  obtain ⟨t, hexec, hresult⟩ := dataCommand_of_report (limit := some (n : Int)) hs' hfit
    (boundedDecode_settles hs'.2 k input n)
    ((congrArg reportOf (boundedDecode_choosing k input n (choiceFor r) s)).trans (reportOf_cutChosen htrace' hr))
  exact ⟨_, t, (exec_decodeDecodelen k n input _).trans hexec, hresult⟩

end Sys2Proof.Proofs.BoundedRelation
end
